-- ==== Sys2Proof/Word.lean ====
section
/-! DEFINITION. The machine's word, byte and register number (10_state.md R20, R21). -/

namespace Sys2Proof

/-- A register, a bus or a memory cell: 16 bits (R20, R60). -/
abbrev Word := BitVec 16

/-- The low byte of an instruction word: a literal, a vector number or a displacement (R112, R115, R116). -/
abbrev Byte := BitVec 8

/-- A general register number, 0 .. 7 (R21). -/
abbrev Reg := Fin 8

/-- The stack pointer's register number (R22). -/
abbrev spReg : Reg := 7

end Sys2Proof
end

