-- ==== Sys2Proof/Config.lean ====
section
/-! DEFINITION. The open parameters of the design (92_eei_decisions.md section 1; 00_scope.md R7). The spec says that a
model takes them as arguments: State carries one `Config` that nothing changes, so every statement holds for every value
of every parameter (log 3). `SP_REG` is a parameter in name only (`spReg`); `PEEK_UNMAPPED` is `none`. -/

namespace Sys2Proof

/-- The two instances of `SubCarry` (40_alu_ops.md R147, 90_conflicts.md C5). -/
inductive SubCarryRule where
  | bit15OfRaw
  | borrow
deriving DecidableEq, Repr

/-- The parameters a model takes as arguments. -/
structure Config where
  /-- `SUB_CARRY_RULE` (R147) -/
  subCarryRule : SubCarryRule
  /-- `MEM_FILL` (R64) -/
  memFill : Word
  /-- `BOOT_PC` (R24) -/
  bootPc : Word
  /-- `KBD_CAPACITY` (R441) -/
  kbdCapacity : Nat
  /-- `SCREEN_CELLS` (R451) -/
  screenCells : Nat
  /-- `MODULE_SIZES_K` (R64) -/
  moduleSizesK : List Nat
deriving DecidableEq, Repr

/-- The defaults of 92_eei_decisions.md section 1. -/
def defaultConfig : Config where
  subCarryRule := .bit15OfRaw
  memFill := 0x0000
  bootPc := 0x0100
  kbdCapacity := 16
  screenCells := 128
  moduleSizesK := [4, 8, 16, 32]

end Sys2Proof
end

