-- ==== Sys2Proof/Machine/Signal.lean ====
section
/-! DEFINITION. The signal catalogue (30_encoding.md R100 to R106; signal_catalog.json): 61 tokens, each with its canonical order
index, its mutual-exclusion group and its kind; and the store's tokens, which may name a placeholder (R106). -/

namespace Sys2Proof.Machine

/-- A control signal (R102). -/
inductive Signal where
  /-- `rN-ib` -/
  | regIb (n : Reg)
  /-- `pc-ib` -/
  | pcIb
  /-- `mdr-ib` -/
  | mdrIb
  /-- `tmps-ib` -/
  | tmpsIb
  /-- `sr-ib` -/
  | srIb
  /-- `irl-ibl` -/
  | irlIbl
  /-- `irl-ibh` -/
  | irlIbh
  /-- `extirl-ib` -/
  | extirlIb
  /-- `tmpe-clr` -/
  | tmpeClr
  /-- `tmpe-set` -/
  | tmpeSet
  /-- `ib-tmpe` -/
  | ibTmpe
  /-- `carry-in` -/
  | carryIn
  /-- `add` -/
  | add
  /-- `sub` -/
  | sub
  /-- `or` -/
  | or
  /-- `and` -/
  | and
  /-- `xor` -/
  | xor
  /-- `alu-tmps` -/
  | aluTmps
  /-- `alu-sr` -/
  | aluSr
  /-- `ib-rN` -/
  | ibReg (n : Reg)
  /-- `ibh-rNh` -/
  | ibhReg (n : Reg)
  /-- `ibl-rNl` -/
  | iblReg (n : Reg)
  /-- `ib-pc` -/
  | ibPc
  /-- `ib-ir` -/
  | ibIr
  /-- `ib-mar` -/
  | ibMar
  /-- `ib-mdr` -/
  | ibMdr
  /-- `ib-sr` -/
  | ibSr
  /-- `cli` -/
  | cli
  /-- `sti` -/
  | sti
  /-- `read` -/
  | read
  /-- `write` -/
  | write
  /-- `inta` -/
  | inta
  /-- `fin` -/
  | fin
deriving DecidableEq, Repr

/-- The canonical order index (R102, R105). -/
def Signal.idx : Signal → Nat
  | .regIb n => n.val
  | .pcIb => 8
  | .mdrIb => 9
  | .tmpsIb => 10
  | .srIb => 11
  | .irlIbl => 12
  | .irlIbh => 13
  | .extirlIb => 14
  | .tmpeClr => 15
  | .tmpeSet => 16
  | .ibTmpe => 17
  | .carryIn => 18
  | .add => 19
  | .sub => 20
  | .or => 21
  | .and => 22
  | .xor => 23
  | .aluTmps => 24
  | .aluSr => 25
  | .ibReg n => 26 + n.val
  | .ibhReg n => 34 + n.val
  | .iblReg n => 42 + n.val
  | .ibPc => 50
  | .ibIr => 51
  | .ibMar => 52
  | .ibMdr => 53
  | .ibSr => 54
  | .cli => 55
  | .sti => 56
  | .read => 57
  | .write => 58
  | .inta => 59
  | .fin => 60

/-- The kinds of signal (R103). -/
inductive Kind where
  | download
  | upload
  | action
deriving DecidableEq, Repr

/-- The kind of each token (R102, R103). -/
def Signal.kind : Signal → Kind
  | .regIb _ | .pcIb | .mdrIb | .tmpsIb | .srIb | .irlIbl | .irlIbh | .extirlIb => .download
  | .ibTmpe | .ibReg _ | .ibhReg _ | .iblReg _ | .ibPc | .ibIr | .ibMar | .ibMdr | .ibSr => .upload
  | .tmpeClr | .tmpeSet | .carryIn | .add | .sub | .or | .and | .xor | .aluTmps | .aluSr => .action
  | .cli | .sti | .read | .write | .inta | .fin => .action

/-- The 19 mutual-exclusion groups (R104). -/
inductive Group where
  | reg (n : Reg)
  | pc
  | mdr
  | mar
  | tmps
  | tmpe
  | ir
  | sr
  | alu
  | memory
  | int
  | fin
deriving DecidableEq, Repr

/-- The group of each token (R102, R104). -/
def Signal.group : Signal → Group
  | .regIb n | .ibReg n | .ibhReg n | .iblReg n => .reg n
  | .pcIb | .ibPc => .pc
  | .mdrIb | .ibMdr => .mdr
  | .ibMar => .mar
  | .tmpsIb | .aluTmps => .tmps
  | .tmpeClr | .tmpeSet | .ibTmpe => .tmpe
  | .irlIbl | .irlIbh | .extirlIb | .ibIr => .ir
  | .srIb | .aluSr | .ibSr | .cli | .sti => .sr
  | .carryIn | .add | .sub | .or | .and | .xor => .alu
  | .read | .write => .memory
  | .inta => .int
  | .fin => .fin

/-- The token's name (R102). -/
def Signal.token : Signal → String
  | .regIb n => "r" ++ Nat.repr n.val ++ "-ib"
  | .pcIb => "pc-ib"
  | .mdrIb => "mdr-ib"
  | .tmpsIb => "tmps-ib"
  | .srIb => "sr-ib"
  | .irlIbl => "irl-ibl"
  | .irlIbh => "irl-ibh"
  | .extirlIb => "extirl-ib"
  | .tmpeClr => "tmpe-clr"
  | .tmpeSet => "tmpe-set"
  | .ibTmpe => "ib-tmpe"
  | .carryIn => "carry-in"
  | .add => "add"
  | .sub => "sub"
  | .or => "or"
  | .and => "and"
  | .xor => "xor"
  | .aluTmps => "alu-tmps"
  | .aluSr => "alu-sr"
  | .ibReg n => "ib-r" ++ Nat.repr n.val
  | .ibhReg n => "ibh-r" ++ Nat.repr n.val ++ "h"
  | .iblReg n => "ibl-r" ++ Nat.repr n.val ++ "l"
  | .ibPc => "ib-pc"
  | .ibIr => "ib-ir"
  | .ibMar => "ib-mar"
  | .ibMdr => "ib-mdr"
  | .ibSr => "ib-sr"
  | .cli => "cli"
  | .sti => "sti"
  | .read => "read"
  | .write => "write"
  | .inta => "inta"
  | .fin => "fin"

/-- The register numbers in order. -/
def allRegs : List Reg := [0, 1, 2, 3, 4, 5, 6, 7]

/-- The tokens of indexes 8 to 25 (R102). -/
def middleSignals : List Signal :=
  [ .pcIb, .mdrIb, .tmpsIb, .srIb, .irlIbl, .irlIbh, .extirlIb, .tmpeClr, .tmpeSet, .ibTmpe, .carryIn, .add, .sub, .or,
    .and, .xor, .aluTmps, .aluSr ]

/-- The tokens of indexes 50 to 60 (R102). -/
def lastSignals : List Signal := [.ibPc, .ibIr, .ibMar, .ibMdr, .ibSr, .cli, .sti, .read, .write, .inta, .fin]

/-- The whole catalogue in index order (R102). -/
def allSignals : List Signal :=
  List.flatten
    [ allRegs.map Signal.regIb, middleSignals, allRegs.map Signal.ibReg, allRegs.map Signal.ibhReg,
      allRegs.map Signal.iblReg, lastSignals ]

/-- The signal of a token name; none for a name outside the catalogue (R100, R231). -/
def signalOfToken (t : String) : Option Signal := allSignals.find? (fun g => g.token == t)

/-- The placeholders of the microcode store (R106). -/
inductive Placeholder where
  | rd
  | rs
  | rs1
  | rs2
  | rds
  | ri
  | rx
deriving DecidableEq, Repr

/-- A token of the microcode store: a catalogue token or one of the four placeholder forms (R106). -/
inductive Token where
  | sig (g : Signal)
  /-- `<p>-ib` -/
  | phIb (p : Placeholder)
  /-- `ib-<p>` -/
  | ibPh (p : Placeholder)
  /-- `ibh-<p>h` -/
  | ibhPh (p : Placeholder)
  /-- `ibl-<p>l` -/
  | iblPh (p : Placeholder)
deriving DecidableEq, Repr

/-- One step of the store: its tokens in execution order (R250). -/
abbrev MicroStep := List Token

/-- A microprogram: the steps after the fetch preamble (R250). -/
abbrev Microprogram := List MicroStep

/-- The step's token is `fin` (R193). -/
def Token.isFin : Token → Bool
  | .sig .fin => true
  | _ => false

/-- The step's token is `ib-ir` (R184). -/
def Token.isIbIr : Token → Bool
  | .sig .ibIr => true
  | _ => false

/-- A placeholder form becomes the catalogue token of the register that the instruction's field names (R106, R286); none where
the instruction has no such field, which no stored step meets. -/
def Token.resolve (field : Placeholder → Option Reg) : Token → Option Signal
  | .sig g => some g
  | .phIb p => (field p).map .regIb
  | .ibPh p => (field p).map .ibReg
  | .ibhPh p => (field p).map .ibhReg
  | .iblPh p => (field p).map .iblReg

end Sys2Proof.Machine
end

