-- ==== Sys2Proof/Machine/State.lean ====
section
/-! DEFINITION. The machine's state (10_state.md R20 to R50) as plain data, its value after reset (R49, R478), and the errors
that stop a run (60_exceptions.md R400, R401). -/

namespace Sys2Proof.Machine

/-- `mem_mode` (R44). -/
inductive MemMode where
  | idle
  | read
  | write
deriving DecidableEq, Repr

/-- `mode` of the control unit (R39, R280). -/
inductive Mode where
  | manual
  | step
  | instruction
  | auto
deriving DecidableEq, Repr

/-- `int_read`, a device's timed-read state (R424, R434, R435). -/
inductive IntRead where
  | idle
  | armed0
  | armed1
deriving DecidableEq, Repr

/-- The ALU's own state (R35): operand latches, carry input, result and four flags. -/
structure Alu where
  a : Word
  b : Word
  carryIn : Bool
  result : Word
  zf : Bool
  cf : Bool
  of : Bool
  sf : Bool
deriving DecidableEq, Repr

/-- The part of a device's state that its kind has (R46, R440, R447, R451). -/
inductive DeviceUnit where
  | keyboard (queue : List Word) (ready : Bool)
  | lights (switches lights : Word)
  | screen (cells : List Word) (power : Bool)
deriving DecidableEq, Repr

/-- A registered device: the state common to every device (R45, R424) and its unit. -/
structure Device where
  name : String
  base : Nat
  size : Nat
  vector : Byte
  priority : Nat
  intEnabled : Bool
  pending : Bool
  intRead : IntRead
  unit : DeviceUnit
deriving DecidableEq, Repr

/-- A RAM module (R44, R64): its first address and its size in K words; its last address follows from them. -/
structure Module where
  start : Nat
  sizeK : Nat
deriving DecidableEq, Repr

/-- The memory cells that differ from the fill value, as (address, word) pairs, addresses rising (R44, R60; logs 1, 2). -/
abbrev Memory := List (Nat × Word)

/-- The whole machine. -/
structure State where
  /-- the open parameters; nothing changes them (log 3) -/
  cfg : Config
  /-- R0 .. R7 (R21) -/
  regs : Vector Word 8
  /-- R23 -/
  pc : Word
  /-- R26 -/
  ir : Word
  /-- IF, SF, OF, CF, ZF in bits 4 .. 0 (R27) -/
  sr : BitVec 5
  /-- R29 -/
  tmpe : Word
  /-- R30 -/
  tmps : Word
  /-- R31 -/
  ib : Word
  /-- R32 -/
  mar : Word
  /-- R33 -/
  mdr : Word
  /-- R35 -/
  alu : Alu
  /-- R37 (log 16) -/
  upc : Fin 106
  /-- `step`, the visible step counter (R38) -/
  stepCount : Nat
  /-- R39 -/
  mode : Mode
  /-- R40 -/
  running : Bool
  /-- R41 -/
  intf : Bool
  /-- the word of the current decoded instruction (R42, log 17) -/
  cur : Option Word
  /-- the pending manual SignalSet in catalogue order (R43, R240) -/
  manualSet : List Signal
  /-- R44 -/
  memMode : MemMode
  /-- R44 -/
  memCnt : Fin 2
  /-- R44 -/
  cells : Memory
  /-- R44 -/
  modules : List Module
  /-- the I/O registry in registration order (R45, R420) -/
  devices : List Device
deriving DecidableEq, Repr

/-- An execution-time error (R400, R401): it stops the clock and surfaces to the host; `left` is the state as executed up to the
failing action, nothing rolled back (R296, R410; log 6). Each is the machine's own error, so
stopping there is safe. -/
inductive Fault where
  /-- BadInstruction, raised by `decodeAndDispatch` on a reserved opcode (R402). Safe. -/
  | badInstruction (left : State)
  /-- Duplicated, raised by `decodeAndDispatch` if two catalogue entries matched; impossible (R403). Safe. -/
  | duplicated (left : State)
  /-- StateError "no module/device at address", raised by `memTick` (R78, R404). Safe. -/
  | noModuleOrDevice (left : State)
  /-- StateError "inta with no pending device", raised by signal `inta` (R405). Safe. -/
  | noPendingDevice (left : State)
  /-- StateError "unsupported memory mode", raised by `read` or `write` during an access (R77, R406). Safe. -/
  | memoryBusy (left : State)
  /-- SignalConflictError, raised by the validator at the start of a manual step, or by a token that resolves to no catalogue
  token, which is unreachable (R160, R242, R407). Safe. -/
  | signalConflict (left : State)
deriving DecidableEq, Repr

/-- Why the model has no meaning to give. -/
inductive Refusal where
  /-- raised by an arm of `exec` whose instruction has no meaning yet. Safe. -/
  | notModelled (mnemonic : String)
deriving DecidableEq, Repr

/-- The three outcomes of a step of this machine. -/
abbrev Result := Host.Outcome State Fault Refusal

/-- The ALU after reset (R474). -/
def Alu.reset : Alu where
  a := 0
  b := 0
  carryIn := false
  result := 0
  zf := false
  cf := false
  of := false
  sf := false

/-- The machine at creation, which is the reset state with no modules and no devices (R49, R470 to R478). -/
def State.reset : State where
  cfg := defaultConfig
  regs := Vector.replicate 8 0
  pc := defaultConfig.bootPc
  ir := 0
  sr := 0
  tmpe := 0
  tmps := 0
  ib := 0
  mar := 0
  mdr := 0
  alu := Alu.reset
  upc := 0
  stepCount := 0
  mode := .instruction
  running := false
  intf := false
  cur := none
  manualSet := []
  memMode := .idle
  memCnt := 0
  cells := []
  modules := []
  devices := []

end Sys2Proof.Machine
end

