-- ==== Sys2Proof/Machine/Devices.lean ====
section
/-! DEFINITION. The devices (60_exceptions.md R424, R440 to R454): what a read, a write and a probe of an offset do, and the
registry's interrupt queries (R425, R426). -/

namespace Sys2Proof.Machine

/-- The address lies in the device's range (R420, R423). -/
def Device.covers (d : Device) (a : Nat) : Bool := d.base ≤ a && a < d.base + d.size

/-- The device has interrupts enabled and is pending (R425). -/
def Device.requesting (d : Device) : Bool := d.intEnabled && d.pending

/-- The Keyboard's status word: bit 0 ready, bit 3 interrupt enable (R443). -/
def keyboardStatus (ready enabled : Bool) : Word :=
  (0 : BitVec 12) ++ BitVec.ofBool enabled ++ (0 : BitVec 2) ++ BitVec.ofBool ready

/-- The Screen's control word: bit 1 power (R453). -/
def screenControl (power : Bool) : Word := (0 : BitVec 14) ++ BitVec.ofBool power ++ (0 : BitVec 1)

/-- `read(offset)`: the word returned and the device after it (R423, R442, R443, R448, R452, R453). -/
def Device.read (d : Device) (off : Nat) : Word × Device :=
  match d.unit with
  | .keyboard queue ready =>
    if off = 0 then
      match queue with
      | [] => (0, d)
      | k :: rest => (k, { d with unit := .keyboard rest (if rest.isEmpty then false else ready) })
    else (keyboardStatus ready d.intEnabled, d)
  | .lights switches _ => (switches, d)
  | .screen cells power =>
    if off < cells.length then (if power then cells.getD off 0 else 0, d)
    else (screenControl power, d)

/-- `peek(offset)`: what `read` would return, with no effect (R69, R442). -/
def Device.peek (d : Device) (off : Nat) : Word := (d.read off).1

/-- The queue after a write of the control register: remove first, remove last, clear, in this order (R444). -/
def keyboardControl (v : Word) (queue : List Word) : List Word :=
  let q1 := if v.getLsbD 0 then queue.tail else queue
  let q2 := if v.getLsbD 1 then q1.dropLast else q1
  if v.getLsbD 2 then [] else q2

/-- `write(offset, v)` (R423, R444, R445, R448, R452, R454). -/
def Device.write (d : Device) (off : Nat) (v : Word) : Device :=
  match d.unit with
  | .keyboard queue _ =>
    if off = 0 then d
    else
      let q := keyboardControl v queue
      { d with intEnabled := v.getLsbD 3, unit := .keyboard q !q.isEmpty }
  | .lights switches _ => { d with unit := .lights switches v }
  | .screen cells power =>
    if off < cells.length then { d with unit := .screen (cells.set off v) power }
    else
      let cleared := if v.getLsbD 0 then List.replicate cells.length 0 else cells
      { d with unit := .screen cleared (v.getLsbD 1) }

/-- Reads the device that covers the address; none where no device does (R67, R423). -/
def readDevices (a : Nat) : List Device → Option (Word × List Device)
  | [] => none
  | d :: ds =>
    if d.covers a then
      let r := d.read (a - d.base)
      some (r.1, r.2 :: ds)
    else (readDevices a ds).map fun r => (r.1, d :: r.2)

/-- Writes the device that covers the address; none where no device does (R68, R423). -/
def writeDevices (a : Nat) (v : Word) : List Device → Option (List Device)
  | [] => none
  | d :: ds =>
    if d.covers a then some (d.write (a - d.base) v :: ds)
    else (writeDevices a v ds).map (d :: ·)

/-- `getIntDevices()`: the requesting devices, in registration order (R425). -/
def intDevices (ds : List Device) : List Device := ds.filter Device.requesting

/-- The place and priority of the requesting device with the lowest priority number, the first registered among equals; places
count from `k` (R426). -/
def nextIntFrom (k : Nat) : List Device → Option (Nat × Nat)
  | [] => none
  | d :: ds =>
    match nextIntFrom (k + 1) ds with
    | none => if d.requesting then some (k, d.priority) else none
    | some (j, p) => if d.requesting && d.priority ≤ p then some (k, d.priority) else some (j, p)

/-- `getNextInt()`: the place in the registry of the device to acknowledge (R426). -/
def nextInt (ds : List Device) : Option Nat := (nextIntFrom 0 ds).map Prod.fst

/-- The places of the requesting devices; places count from `k` (R427). -/
def requestingFrom (k : Nat) : List Device → List Nat
  | [] => []
  | d :: ds => if d.requesting then k :: requestingFrom (k + 1) ds else requestingFrom (k + 1) ds

end Sys2Proof.Machine
end

