-- ==== Sys2Proof/Machine/Memory.lean ====
section
/-! DEFINITION. The memory controller's map (20_memory.md R60 to R70): the sparse cells in canonical form, the modules, and the
dispatch of `GetPos`, `SetPos` and `PeekPos`. -/

namespace Sys2Proof.Machine

/-- The word at an address; an unlisted cell holds the fill value (R64, log 2). -/
def Memory.read (fill : Word) : Memory → Nat → Word
  | [], _ => fill
  | (b, w) :: m, a => if a = b then w else Memory.read fill m a

/-- Stores a word, keeping the addresses rising and no entry equal to the fill value. -/
def Memory.write (fill : Word) : Memory → Nat → Word → Memory
  | [], a, v => if v = fill then [] else [(a, v)]
  | (b, w) :: m, a, v =>
    if a < b then (if v = fill then (b, w) :: m else (a, v) :: (b, w) :: m)
    else if a = b then (if v = fill then m else (a, v) :: m)
    else (b, w) :: Memory.write fill m a v

/-- Sets `len` cells from `lo` on to the fill value (R64, R65). -/
def Memory.clear (m : Memory) (lo len : Nat) : Memory := m.filter fun e => e.1 < lo || lo + len ≤ e.1

/-- Every entry lies above `lo`, the addresses rise and no entry equals the fill value. -/
def Memory.wfFrom (fill : Word) : Nat → Memory → Bool
  | _, [] => true
  | lo, (b, w) :: m => lo ≤ b && w != fill && Memory.wfFrom fill (b + 1) m

/-- The canonical form: addresses strictly rising and no entry equal to what an unlisted address reads as. -/
def Memory.wf (fill : Word) (m : Memory) : Bool := Memory.wfFrom fill 0 m

/-- The module maps the address (R64). -/
def Module.covers (m : Module) (a : Nat) : Bool := m.start ≤ a && a < m.start + m.sizeK * 1024

/-- A module covers the address (R67). -/
def State.inModule (s : State) (a : Nat) : Bool := s.modules.any fun m => m.covers a

/-- `GetPos(a)`: the word and the devices after the read; none where nothing is mapped (R67, R80). -/
def State.getPos (s : State) (a : Nat) : Option (Word × List Device) :=
  if s.inModule a then some (s.cells.read s.cfg.memFill a, s.devices) else readDevices a s.devices

/-- `SetPos(a, v)`: the cells and the devices after the write; none where nothing is mapped (R68). -/
def State.setPos (s : State) (a : Nat) (v : Word) : Option (Memory × List Device) :=
  if s.inModule a then some (s.cells.write s.cfg.memFill a v, s.devices)
  else (writeDevices a v s.devices).map fun ds => (s.cells, ds)

/-- The state with the cells and the devices that `setPos` answers. -/
def State.withMemory (s : State) (r : Memory × List Device) : State := { s with cells := r.1, devices := r.2 }

/-- `PeekPos(a)`: what `GetPos` would return, with no effect; `PEEK_UNMAPPED` is `none` (R69). -/
def State.peekPos (s : State) (a : Nat) : Option Word := (s.getPos a).map Prod.fst

/-- Two address ranges, each a first address and a length, have an address in common. -/
def rangesOverlap (a la b lb : Nat) : Bool := a < b + lb && b < a + la

/-- The module has no address in the range. -/
def Module.outside (m : Module) (a len : Nat) : Bool := !rangesOverlap m.start (m.sizeK * 1024) a len

/-- The device has no address in the range. -/
def Device.outside (d : Device) (a len : Nat) : Bool := !rangesOverlap d.base d.size a len

/-- RAM under an address that a program is to be placed at: two 32K modules on an empty machine, the address's aligned 4K
block in a machine that maps it otherwise (R480, log 7). -/
def State.withRamAt (s : State) (a : Nat) : State :=
  if s.inModule a then s
  else if s.modules.isEmpty && s.devices.isEmpty then { s with modules := [⟨0, 32⟩, ⟨0x8000, 32⟩] }
  else
    let start := a / 4096 * 4096
    { s with
      modules := s.modules.filter (fun m => m.outside start 4096) ++ [⟨start, 4⟩]
      devices := s.devices.filter fun d => d.outside start 4096 }

/-- A word placed in RAM. -/
def State.placeWord (s : State) (a : Nat) (w : Word) : State :=
  let r := s.withRamAt a
  { r with cells := r.cells.write r.cfg.memFill a w }

end Sys2Proof.Machine
end

