-- ==== Sys2Proof/Syntax.lean ====
section
/-! DEFINITION. The instruction catalogue (30_encoding.md R123): one constructor per row of spec/opcode_table.json, operands
in the order of the assembler syntax (R125). A displacement is the signed number of words it stands for (R116, log 18). -/

namespace Sys2Proof

/-- A decoded instruction with its operands. -/
inductive Instr where
  /-- R321 -/
  | nop
  /-- MOV Rd,Rs (R322) -/
  | mov (rd rs : Reg)
  /-- MOV Rd,[Ri] (R323) -/
  | movLoad (rd ri : Reg)
  /-- MOV [Ri],Rs (R324) -/
  | movStore (ri rs : Reg)
  /-- R325 -/
  | movl (rd : Reg) (imm8 : Byte)
  /-- R326 -/
  | movh (rd : Reg) (imm8 : Byte)
  /-- R327 -/
  | push (rs : Reg)
  /-- R328 -/
  | pop (rd : Reg)
  /-- R341 -/
  | add (rd rs1 rs2 : Reg)
  /-- R342 -/
  | sub (rd rs1 rs2 : Reg)
  /-- R343 -/
  | or (rd rs1 rs2 : Reg)
  /-- R344 -/
  | and (rd rs1 rs2 : Reg)
  /-- R345 -/
  | xor (rd rs1 rs2 : Reg)
  /-- R346 -/
  | cmp (rs1 rs2 : Reg)
  /-- R347 -/
  | not (rds : Reg)
  /-- R348 -/
  | inc (rds : Reg)
  /-- R349 -/
  | dec (rds : Reg)
  /-- R350 -/
  | neg (rds : Reg)
  /-- R378 -/
  | cli
  /-- R379 -/
  | sti
  /-- R376 -/
  | int (imm8 : Byte)
  /-- R377 -/
  | iret
  /-- R361 -/
  | jr (d8 : Int)
  /-- R362 -/
  | jmp (rx : Reg)
  /-- R363 -/
  | callr (d8 : Int)
  /-- R364 -/
  | call (rx : Reg)
  /-- R365 -/
  | ret
  /-- R367 -/
  | brc (d8 : Int)
  /-- R368 -/
  | brnc (d8 : Int)
  /-- R369 -/
  | bro (d8 : Int)
  /-- R370 -/
  | brno (d8 : Int)
  /-- R371 -/
  | brz (d8 : Int)
  /-- R372 -/
  | brnz (d8 : Int)
  /-- R373 -/
  | brs (d8 : Int)
  /-- R374 -/
  | brns (d8 : Int)
deriving DecidableEq, Repr

end Sys2Proof
end

