-- ==== Sys2Proof/WellFormed.lean ====
section
/-! DEFINITION. Which instructions the encoding can carry: a displacement lies in -128 .. +127 (30_encoding.md R116);
register numbers and 8-bit literals are in range by their types (R111 to R115). -/

namespace Sys2Proof

/-- The displacement of formats D and CD (R116, R117). -/
def Instr.displacement : Instr → Option Int
  | .jr d | .callr d => some d
  | .brc d | .brnc d | .bro d | .brno d | .brz d | .brnz d | .brs d | .brns d => some d
  | .nop | .mov _ _ | .movLoad _ _ | .movStore _ _ | .movl _ _ | .movh _ _ | .push _ | .pop _ => none
  | .add _ _ _ | .sub _ _ _ | .or _ _ _ | .and _ _ _ | .xor _ _ _ | .cmp _ _ => none
  | .not _ | .inc _ | .dec _ | .neg _ | .cli | .sti | .int _ | .iret | .jmp _ | .call _ | .ret => none

/-- A displacement of two's complement in 8 bits (R116). -/
abbrev displacementFits (d : Int) : Prop := -128 ≤ d ∧ d ≤ 127

/-- Every operand is one its field can hold. -/
abbrev Instr.WellFormed (i : Instr) : Prop := ∀ d ∈ i.displacement, displacementFits d

end Sys2Proof
end

