-- ==== Sys2Proof/Decode.lean ====
section
/-! DEFINITION. Decoding a 16-bit word (30_encoding.md R107 to R119), encoding an instruction (R124) and rendering its mnemonic
(R125). Decoding matches the opcode prefix only: bits outside the format's fields are ignored (R120). -/

namespace Sys2Proof

/-- Why a word has no meaning (R119). -/
inductive DecodeError where
  /-- no catalogue instruction has this opcode -/
  | badInstruction
  /-- more than one has: an internal invariant violation, impossible with this catalogue -/
  | duplicated
deriving DecidableEq, Repr

/-- w[15:11] (R108). -/
def opcodeOf (w : Word) : BitVec 5 := w.extractLsb' 11 5

/-- A register number in three bits. -/
def regOfBits (b : BitVec 3) : Reg := ⟨b.toNat, b.isLt⟩

/-- The register field w[10:8]. -/
def fieldA (w : Word) : Reg := regOfBits (w.extractLsb' 8 3)

/-- The register field w[7:5]. -/
def fieldB (w : Word) : Reg := regOfBits (w.extractLsb' 5 3)

/-- The register field w[4:2]. -/
def fieldC (w : Word) : Reg := regOfBits (w.extractLsb' 2 3)

/-- The literal field w[7:0], unsigned (R112, R115). -/
def fieldImm (w : Word) : Byte := w.extractLsb' 0 8

/-- The displacement field w[7:0], signed (R116). -/
def fieldDisp (w : Word) : Int := (fieldImm w).toInt

/-- The conditional branch of condition number `cond` (R122). -/
def branchOfCond (cond : BitVec 3) (d : Int) : Instr :=
  match cond.toNat with
  | 0 => .brc d
  | 1 => .brnc d
  | 2 => .bro d
  | 3 => .brno d
  | 4 => .brz d
  | 5 => .brnz d
  | 6 => .brs d
  | _ => .brns d

/-- The decoder's catalogue: each opcode with how its format reads the operands (R109 to R117, R123). The pseudo-opcode
0b11111 is not in it (R126). -/
def catalogue : List (BitVec 5 × (Word → Instr)) :=
  [ (0b00000, fun _ => .nop),
    (0b00001, fun w => .mov (fieldA w) (fieldB w)),
    (0b00010, fun w => .movLoad (fieldA w) (fieldB w)),
    (0b00011, fun w => .movStore (fieldA w) (fieldB w)),
    (0b00100, fun w => .movl (fieldA w) (fieldImm w)),
    (0b00101, fun w => .movh (fieldA w) (fieldImm w)),
    (0b00110, fun w => .push (fieldA w)),
    (0b00111, fun w => .pop (fieldA w)),
    (0b01000, fun w => .add (fieldA w) (fieldB w) (fieldC w)),
    (0b01001, fun w => .sub (fieldA w) (fieldB w) (fieldC w)),
    (0b01010, fun w => .or (fieldA w) (fieldB w) (fieldC w)),
    (0b01011, fun w => .and (fieldA w) (fieldB w) (fieldC w)),
    (0b01100, fun w => .xor (fieldA w) (fieldB w) (fieldC w)),
    (0b01101, fun w => .cmp (fieldA w) (fieldB w)),
    (0b10000, fun w => .not (fieldA w)),
    (0b10001, fun w => .inc (fieldA w)),
    (0b10010, fun w => .dec (fieldA w)),
    (0b10011, fun w => .neg (fieldA w)),
    (0b10100, fun _ => .cli),
    (0b10101, fun _ => .sti),
    (0b10110, fun w => .int (fieldImm w)),
    (0b10111, fun _ => .iret),
    (0b11000, fun w => .jr (fieldDisp w)),
    (0b11001, fun w => .jmp (fieldA w)),
    (0b11010, fun w => .callr (fieldDisp w)),
    (0b11011, fun w => .call (fieldA w)),
    (0b11100, fun _ => .ret),
    (0b11110, fun w => branchOfCond (w.extractLsb' 8 3) (fieldDisp w)) ]

/-- `decodeInstruction` (R118, R119): the one catalogue instruction whose opcode is the word's. -/
def decodeInstruction (w : Word) : Except DecodeError Instr :=
  match catalogue.filter (fun e => e.1 == opcodeOf w) with
  | [] => .error .badInstruction
  | [e] => .ok (e.2 w)
  | _ => .error .duplicated

/-- The opcode of an instruction (R123). -/
def Instr.opcode : Instr → BitVec 5
  | .nop => 0b00000
  | .mov _ _ => 0b00001
  | .movLoad _ _ => 0b00010
  | .movStore _ _ => 0b00011
  | .movl _ _ => 0b00100
  | .movh _ _ => 0b00101
  | .push _ => 0b00110
  | .pop _ => 0b00111
  | .add _ _ _ => 0b01000
  | .sub _ _ _ => 0b01001
  | .or _ _ _ => 0b01010
  | .and _ _ _ => 0b01011
  | .xor _ _ _ => 0b01100
  | .cmp _ _ => 0b01101
  | .not _ => 0b10000
  | .inc _ => 0b10001
  | .dec _ => 0b10010
  | .neg _ => 0b10011
  | .cli => 0b10100
  | .sti => 0b10101
  | .int _ => 0b10110
  | .iret => 0b10111
  | .jr _ => 0b11000
  | .jmp _ => 0b11001
  | .callr _ => 0b11010
  | .call _ => 0b11011
  | .ret => 0b11100
  | .brc _ | .brnc _ | .bro _ | .brno _ | .brz _ | .brnz _ | .brs _ | .brns _ => 0b11110

/-- A register number as its three-bit field. -/
def regBits (r : Reg) : BitVec 3 := BitVec.ofNat 3 r.val

/-- A displacement as its two's complement field, taken modulo 256 (R124). -/
def dispBits (d : Int) : Byte := BitVec.ofInt 8 d

/-- w[10:0] of an instruction: each operand in its field, every other bit 0 (R110 to R117, R124). -/
def Instr.operandBits : Instr → BitVec 11
  | .nop | .cli | .sti | .iret | .ret => 0
  | .mov a b | .movLoad a b | .movStore a b | .cmp a b => regBits a ++ regBits b ++ (0 : BitVec 5)
  | .movl a k | .movh a k => regBits a ++ k
  | .push a | .pop a | .not a | .inc a | .dec a | .neg a | .jmp a | .call a => regBits a ++ (0 : BitVec 8)
  | .add a b c | .sub a b c | .or a b c | .and a b c | .xor a b c =>
      regBits a ++ regBits b ++ regBits c ++ (0 : BitVec 2)
  | .int k => (0 : BitVec 3) ++ k
  | .jr d | .callr d => (0 : BitVec 3) ++ dispBits d
  | .brc d => (0b000 : BitVec 3) ++ dispBits d
  | .brnc d => (0b001 : BitVec 3) ++ dispBits d
  | .bro d => (0b010 : BitVec 3) ++ dispBits d
  | .brno d => (0b011 : BitVec 3) ++ dispBits d
  | .brz d => (0b100 : BitVec 3) ++ dispBits d
  | .brnz d => (0b101 : BitVec 3) ++ dispBits d
  | .brs d => (0b110 : BitVec 3) ++ dispBits d
  | .brns d => (0b111 : BitVec 3) ++ dispBits d

/-- The encode function of every catalogue instruction (R124). -/
def encode (i : Instr) : Word := i.opcode ++ i.operandBits

/-- The bits of the word that the instruction's format assigns to a field, the opcode included; decode ignores the others
(R109 to R117, R120). -/
def Instr.usedBits : Instr → Word
  | .nop | .cli | .sti | .iret | .ret => 0b11111_000_000_000_00
  | .mov _ _ | .movLoad _ _ | .movStore _ _ | .cmp _ _ => 0b11111_111_111_000_00
  | .movl _ _ | .movh _ _ => 0b11111_111_11111111
  | .push _ | .pop _ | .not _ | .inc _ | .dec _ | .neg _ | .jmp _ | .call _ => 0b11111_111_000_000_00
  | .add _ _ _ | .sub _ _ _ | .or _ _ _ | .and _ _ _ | .xor _ _ _ => 0b11111_111_111_111_00
  | .int _ | .jr _ | .callr _ => 0b11111_000_11111111
  | .brc _ | .brnc _ | .bro _ | .brno _ | .brz _ | .brnz _ | .brs _ | .brns _ => 0b11111_111_11111111

/-- What the decoder reads from `nbits` instruction bits numbered as spec/opcode_table.json numbers them; an instruction
is one 16-bit word (R107), bits above `nbits` are 0. -/
def decodeTableWord (nbits w : Nat) : Option Instr :=
  match decodeInstruction (BitVec.ofNat 16 (w % 2 ^ nbits)) with
  | .ok i => some i
  | .error _ => none

/-- One upper-case hexadecimal digit. -/
def hexDigit (n : Nat) : String :=
  ["0", "1", "2", "3", "4", "5", "6", "7", "8", "9", "A", "B", "C", "D", "E", "F"].getD n "?"

/-- A literal: `#` and exactly two upper-case hexadecimal digits (R125). -/
def renderImm (k : Byte) : String := "#" ++ hexDigit (k.toNat / 16) ++ hexDigit (k.toNat % 16)

/-- A register name (R125). -/
def renderReg (r : Reg) : String := "R" ++ Nat.repr r.val

/-- A memory operand (R125). -/
def renderMem (r : Reg) : String := "[" ++ renderReg r ++ "]"

/-- A signed decimal displacement (R125). -/
def renderDisp (d : Int) : String := Int.repr d

/-- Three register operands (R125). -/
def renderRegs3 (a b c : Reg) : String := renderReg a ++ "," ++ renderReg b ++ "," ++ renderReg c

/-- The assembler text of an instruction (R125). -/
def Instr.render : Instr → String
  | .nop => "NOP"
  | .mov a b => "MOV " ++ renderReg a ++ "," ++ renderReg b
  | .movLoad a b => "MOV " ++ renderReg a ++ "," ++ renderMem b
  | .movStore a b => "MOV " ++ renderMem a ++ "," ++ renderReg b
  | .movl a k => "MOVL " ++ renderReg a ++ "," ++ renderImm k
  | .movh a k => "MOVH " ++ renderReg a ++ "," ++ renderImm k
  | .push a => "PUSH " ++ renderReg a
  | .pop a => "POP " ++ renderReg a
  | .add a b c => "ADD " ++ renderRegs3 a b c
  | .sub a b c => "SUB " ++ renderRegs3 a b c
  | .or a b c => "OR " ++ renderRegs3 a b c
  | .and a b c => "AND " ++ renderRegs3 a b c
  | .xor a b c => "XOR " ++ renderRegs3 a b c
  | .cmp a b => "CMP " ++ renderReg a ++ "," ++ renderReg b
  | .not a => "NOT " ++ renderReg a
  | .inc a => "INC " ++ renderReg a
  | .dec a => "DEC " ++ renderReg a
  | .neg a => "NEG " ++ renderReg a
  | .cli => "CLI"
  | .sti => "STI"
  | .int k => "INT " ++ renderImm k
  | .iret => "IRET"
  | .jr d => "JR " ++ renderDisp d
  | .jmp a => "JMP " ++ renderReg a
  | .callr d => "CALLR " ++ renderDisp d
  | .call a => "CALL " ++ renderReg a
  | .ret => "RET"
  | .brc d => "BRC " ++ renderDisp d
  | .brnc d => "BRNC " ++ renderDisp d
  | .bro d => "BRO " ++ renderDisp d
  | .brno d => "BRNO " ++ renderDisp d
  | .brz d => "BRZ " ++ renderDisp d
  | .brnz d => "BRNZ " ++ renderDisp d
  | .brs d => "BRS " ++ renderDisp d
  | .brns d => "BRNS " ++ renderDisp d

end Sys2Proof
end

