-- ==== Sys2Proof/Machine/Flags.lean ====
section
/-! DEFINITION. The ALU's five operations with every flag they compute (40_alu_ops.md R140 to R148), and the status register's
bits (10_state.md R27). -/

namespace Sys2Proof.Machine

/-- `positive(x)`: bit 15 is 0 (R8). -/
def positive (x : Word) : Bool := !x.msb

/-- `SubCarry(a, b)`: the carry flag of `sub`, in its two instances (R147, log 8). -/
def subCarry (rule : SubCarryRule) (a b : Word) : Bool :=
  match rule with
  | .bit15OfRaw => (a.toNat + (b ^^^ 0xFFFF).toNat + 1).testBit 15
  | .borrow => decide (a.toNat < b.toNat)

/-- Overflow of `add` (R141). -/
def addOverflow (a b r : Word) : Bool :=
  (positive a && positive b && !positive r) || (!positive a && !positive b && positive r)

/-- Overflow of `sub` (R142). -/
def subOverflow (a b r : Word) : Bool :=
  (positive a && !positive b && !positive r) || (!positive a && positive b && positive r)

/-- What every operation does besides `cf` and `of`: latches the operands, sets the result and its `zf` and `sf` (R140). -/
def aluLatch (a b r : Word) (x : Alu) : Alu :=
  { x with a := a, b := b, result := r, zf := r == 0, sf := r.msb }

/-- `add` (R141). -/
def aluAdd (a b : Word) (x : Alu) : Alu :=
  let raw := a.toNat + b.toNat + x.carryIn.toNat
  let r := BitVec.ofNat 16 raw
  { aluLatch a b r x with cf := decide (raw > 0xFFFF), of := addOverflow a b r }

/-- `sub` (R142). -/
def aluSub (rule : SubCarryRule) (a b : Word) (x : Alu) : Alu :=
  let r := BitVec.ofNat 16 (a.toNat + (b ^^^ 0xFFFF).toNat + 1)
  { aluLatch a b r x with cf := subCarry rule a b, of := subOverflow a b r }

/-- `or` (R143). -/
def aluOr (a b : Word) (x : Alu) : Alu := aluLatch a b (a ||| b) x

/-- `and` (R144). -/
def aluAnd (a b : Word) (x : Alu) : Alu := aluLatch a b (a &&& b) x

/-- `xor` (R145). -/
def aluXor (a b : Word) (x : Alu) : Alu := aluLatch a b (a ^^^ b) x

/-- The status register with the given bits (R27). -/
def packSr (if_ sf of cf zf : Bool) : BitVec 5 :=
  BitVec.ofBool if_ ++ BitVec.ofBool sf ++ BitVec.ofBool of ++ BitVec.ofBool cf ++ BitVec.ofBool zf

/-- SR.ZF (R27). -/
def srZf (sr : BitVec 5) : Bool := sr.getLsbD 0

/-- SR.CF (R27). -/
def srCf (sr : BitVec 5) : Bool := sr.getLsbD 1

/-- SR.OF (R27). -/
def srOf (sr : BitVec 5) : Bool := sr.getLsbD 2

/-- SR.SF (R27). -/
def srSf (sr : BitVec 5) : Bool := sr.getLsbD 3

/-- SR.IF (R27). -/
def srIf (sr : BitVec 5) : Bool := sr.getLsbD 4

/-- The effect of `alu-sr`: the four ALU flags are copied, IF is kept (R179). -/
def copyFlags (x : Alu) (sr : BitVec 5) : BitVec 5 := packSr (srIf sr) x.sf x.of x.cf x.zf

/-- The effect of `cli` (R188). -/
def clearIf (sr : BitVec 5) : BitVec 5 := sr &&& 0b01111

/-- The effect of `sti` (R189). -/
def setIf (sr : BitVec 5) : BitVec 5 := sr ||| 0b10000

end Sys2Proof.Machine
end

