-- ==== Sys2Proof/Machine/Operands.lean ====
section
/-! DEFINITION. The operand forms: register reads and writes (whole, high byte, low byte), the three ways the low byte of the
instruction reaches the bus (30_encoding.md R121), the fields placeholders name (R106), and the branch conditions (R122). -/

namespace Sys2Proof.Machine

/-- `R[n]` (R21). -/
def State.reg (s : State) (n : Reg) : Word := s.regs[n.val]

/-- `R[n] <- v` (R21, R180). -/
def State.setReg (s : State) (n : Reg) (v : Word) : State := { s with regs := s.regs.set n.val v }

/-- The high byte of a word (R8). -/
def highByte (w : Word) : Byte := w.extractLsb' 8 8

/-- The low byte of a word (R8). -/
def lowByte (w : Word) : Byte := w.extractLsb' 0 8

/-- `hi : lo` (R8). -/
def bytes (hi lo : Byte) : Word := hi ++ lo

/-- `sext_16` (R8). -/
def signExtendByte (k : Byte) : Word := k.signExtend 16

end Sys2Proof.Machine

namespace Sys2Proof

/-- The register field a placeholder names in an instruction's format (R106, R109). -/
def Instr.field : Instr → Machine.Placeholder → Option Reg
  | .mov rd _, .rd => some rd
  | .mov _ rs, .rs => some rs
  | .movLoad rd _, .rd => some rd
  | .movLoad _ ri, .ri => some ri
  | .movStore ri _, .ri => some ri
  | .movStore _ rs, .rs => some rs
  | .movl rd _, .rd => some rd
  | .movh rd _, .rd => some rd
  | .push rs, .rs => some rs
  | .pop rd, .rd => some rd
  | .add rd _ _, .rd | .sub rd _ _, .rd | .or rd _ _, .rd | .and rd _ _, .rd | .xor rd _ _, .rd => some rd
  | .add _ rs1 _, .rs1 | .sub _ rs1 _, .rs1 | .or _ rs1 _, .rs1 | .and _ rs1 _, .rs1 | .xor _ rs1 _, .rs1 => some rs1
  | .add _ _ rs2, .rs2 | .sub _ _ rs2, .rs2 | .or _ _ rs2, .rs2 | .and _ _ rs2, .rs2 | .xor _ _ rs2, .rs2 => some rs2
  | .cmp rs1 _, .rs1 => some rs1
  | .cmp _ rs2, .rs2 => some rs2
  | .not rds, .rds | .inc rds, .rds | .dec rds, .rds | .neg rds, .rds => some rds
  | .jmp rx, .rx | .call rx, .rx => some rx
  | _, _ => none

/-- The low byte of the instruction word where the format gives it to an operand: a literal, a vector number or a displacement
(R112, R115, R116, R117). -/
def Instr.operandByte : Instr → Option Byte
  | .movl _ k | .movh _ k | .int k => some k
  | .jr d | .callr d => some (dispBits d)
  | .brc d | .brnc d | .bro d | .brno d | .brz d | .brnz d | .brs d | .brns d => some (dispBits d)
  | .nop | .mov _ _ | .movLoad _ _ | .movStore _ _ | .push _ | .pop _ => none
  | .add _ _ _ | .sub _ _ _ | .or _ _ _ | .and _ _ _ | .xor _ _ _ | .cmp _ _ => none
  | .not _ | .inc _ | .dec _ | .neg _ | .cli | .sti | .iret | .jmp _ | .call _ | .ret => none

end Sys2Proof

namespace Sys2Proof.Machine

/-- The branch conditions (R122). -/
inductive Condition where
  | c
  | nc
  | o
  | no
  | z
  | nz
  | s
  | ns
deriving DecidableEq, Repr

/-- When a condition is true (R122). -/
def condTrue (k : Condition) (sr : BitVec 5) : Bool :=
  match k with
  | .c => srCf sr
  | .nc => !srCf sr
  | .o => srOf sr
  | .no => !srOf sr
  | .z => srZf sr
  | .nz => !srZf sr
  | .s => srSf sr
  | .ns => !srSf sr

end Sys2Proof.Machine

namespace Sys2Proof

/-- The condition of an instruction of format CD (R117, R367 to R374). -/
def Instr.condition : Instr → Option Machine.Condition
  | .brc _ => some .c
  | .brnc _ => some .nc
  | .bro _ => some .o
  | .brno _ => some .no
  | .brz _ => some .z
  | .brnz _ => some .nz
  | .brs _ => some .s
  | .brns _ => some .ns
  | .nop | .mov _ _ | .movLoad _ _ | .movStore _ _ | .movl _ _ | .movh _ _ | .push _ | .pop _ => none
  | .add _ _ _ | .sub _ _ _ | .or _ _ _ | .and _ _ _ | .xor _ _ _ | .cmp _ _ => none
  | .not _ | .inc _ | .dec _ | .neg _ | .cli | .sti | .int _ | .iret => none
  | .jr _ | .jmp _ | .callr _ | .call _ | .ret => none

end Sys2Proof
end

