-- ==== Sys2Proof/Machine/Executor.lean ====
section
/-! DEFINITION. The signal executor (41_signals.md R160 to R195): what each of the 61 signals does, and the sequential execution
of one step's tokens in order. -/

namespace Sys2Proof.Machine

/-- Goes on with the state of a successful outcome; an error or refusal stays (R296). -/
def andThen (r : Result) (f : State → Result) : Result :=
  match r with
  | .next s => f s
  | .fault e => .fault e
  | .refused e => .refused e

/-- The clock stopped (R296, R473). -/
def State.halt (s : State) : State := { s with running := false }

/-- Signals `read` and `write`: arm an access (R72, R73), an error while one is in progress (R77). -/
def arm (m : MemMode) (s : State) : Result :=
  match s.memMode with
  | .idle => .next { s with memMode := m, memCnt := 0 }
  | .read | .write => .fault (.memoryBusy s.halt)

/-- The acknowledge hook of the device at place `k` (R434). -/
def acknowledgeAt (k : Nat) (ds : List Device) : List Device := ds.modify k fun d => { d with intRead := .armed0 }

/-- Signal `inta`: the best pending device enters its interrupt-read mode; an error if there is none (R192, R405). -/
def acknowledge (s : State) : Result :=
  match nextInt s.devices with
  | none => .fault (.noPendingDevice s.halt)
  | some k => .next { s with devices := acknowledgeAt k s.devices }

/-- The state transition of one signal (R161 to R193). -/
def execSignal (g : Signal) (s : State) : Result :=
  match g with
  | .regIb n => .next { s with ib := s.reg n }
  | .pcIb => .next { s with ib := s.pc }
  | .mdrIb => .next { s with ib := s.mdr }
  | .tmpsIb => .next { s with ib := s.tmps }
  | .srIb => .next { s with ib := s.sr.setWidth 16 }
  | .irlIbl => .next { s with ib := bytes 0 (lowByte s.ir) }
  | .irlIbh => .next { s with ib := bytes (lowByte s.ir) 0 }
  | .extirlIb => .next { s with ib := signExtendByte (lowByte s.ir) }
  | .tmpeClr => .next { s with tmpe := 0x0000 }
  | .tmpeSet => .next { s with tmpe := 0xFFFF }
  | .ibTmpe => .next { s with tmpe := s.ib }
  | .carryIn => .next { s with alu := { s.alu with carryIn := true } }
  | .add => .next { s with alu := aluAdd s.ib s.tmpe s.alu }
  | .sub => .next { s with alu := aluSub s.cfg.subCarryRule s.ib s.tmpe s.alu }
  | .or => .next { s with alu := aluOr s.ib s.tmpe s.alu }
  | .and => .next { s with alu := aluAnd s.ib s.tmpe s.alu }
  | .xor => .next { s with alu := aluXor s.ib s.tmpe s.alu }
  | .aluTmps => .next { s with tmps := s.alu.result }
  | .aluSr => .next { s with sr := copyFlags s.alu s.sr }
  | .ibReg n => .next (s.setReg n s.ib)
  | .ibhReg n => .next (s.setReg n (bytes (highByte s.ib) (lowByte (s.reg n))))
  | .iblReg n => .next (s.setReg n (bytes (highByte (s.reg n)) (lowByte s.ib)))
  | .ibPc => .next { s with pc := s.ib }
  | .ibIr => .next { s with ir := s.ib }
  | .ibMar => .next { s with mar := s.ib }
  | .ibMdr => .next { s with mdr := s.ib }
  | .ibSr => .next { s with sr := s.ib.setWidth 5 }
  | .cli => .next { s with sr := clearIf s.sr }
  | .sti => .next { s with sr := setIf s.sr }
  | .read => arm .read s
  | .write => arm .write s
  | .inta => acknowledge s
  | .fin => .next s

/-- One token of a stored step, its placeholder replaced by the instruction's field; an unresolved placeholder is a token outside
the catalogue (R160, R286). -/
def execToken (field : Placeholder → Option Reg) (t : Token) (s : State) : Result :=
  match t.resolve field with
  | some g => execSignal g s
  | none => .fault (.signalConflict s.halt)

/-- The step's tokens one after the other, each seeing the effects of the earlier ones; the first error ends the step
(R160, R195, R287). -/
def execTokens (field : Placeholder → Option Reg) : MicroStep → State → Result
  | [], s => .next s
  | t :: ts, s => andThen (execToken field t s) (execTokens field ts)

/-- The observable trace of a step's execution: the pair of step number and signal for each signal executed (R160, R300). -/
def traceTokens (field : Placeholder → Option Reg) : MicroStep → State → List (Nat × Signal)
  | [], _ => []
  | t :: ts, s =>
    match t.resolve field with
    | none => []
    | some g =>
      match execSignal g s with
      | .next s' => (s.stepCount, g) :: traceTokens field ts s'
      | .fault _ => []
      | .refused _ => []

end Sys2Proof.Machine
end

