-- ==== Sys2Proof/Machine/Microcode.lean ====
section
/-! DEFINITION. The microcode store (43_microcode_store.md R250 to R262): the fetch preamble, every instruction's microprogram, the
interrupt-service block, and the flat array they are registered into. -/

namespace Sys2Proof.Machine

open Signal

/-- The fetch preamble (R252, R253, R254). -/
def fetchPreamble : Microprogram :=
  [ [.sig pcIb, .sig tmpeClr, .sig carryIn, .sig add, .sig aluTmps, .sig ibMar, .sig read],
    [.sig tmpsIb, .sig ibPc],
    [.sig mdrIb, .sig ibIr] ]

/-- The *push-address* sequence (R261). -/
def pushAddress : Microprogram :=
  [ [.sig (regIb spReg), .sig tmpeSet, .sig add, .sig aluTmps],
    [.sig tmpsIb, .sig (ibReg spReg), .sig ibMar] ]

/-- The *pop* sequence (R261). -/
def popSequence : Microprogram :=
  [ [.sig (regIb spReg), .sig tmpeClr, .sig carryIn, .sig add, .sig aluTmps, .sig ibMar, .sig read],
    [],
    [.sig tmpsIb, .sig (ibReg spReg)] ]

/-- The two steps that store PC at the address in MAR, after *push-address* (R363, R364, R376). -/
def storePc : Microprogram := [[.sig pcIb, .sig ibMdr, .sig write], []]

/-- The two steps that store SR at the address in MAR, after *push-address* (R256, R376). -/
def storeSr : Microprogram := [[.sig srIb, .sig ibMdr, .sig write], []]

/-- The *relative* sequence (R261). -/
def relativeJump : Microprogram :=
  [ [.sig pcIb, .sig ibTmpe],
    [.sig extirlIb, .sig add, .sig aluTmps],
    [.sig tmpsIb, .sig ibPc, .sig fin] ]

/-- NOP, address 3 (R321). -/
def ucNop : Microprogram := [[.sig fin]]

/-- MOV Rd,Rs, address 4 (R322). -/
def ucMov : Microprogram := [[.phIb .rs, .ibPh .rd, .sig fin]]

/-- MOV Rd,[Ri], address 5 (R323). -/
def ucMovLoad : Microprogram := [[.phIb .ri, .sig ibMar, .sig read], [], [.sig mdrIb, .ibPh .rd, .sig fin]]

/-- MOV [Ri],Rs, address 8 (R324). -/
def ucMovStore : Microprogram := [[.phIb .ri, .sig ibMar], [.phIb .rs, .sig ibMdr, .sig write], [], [.sig fin]]

/-- MOVL, address 12 (R325). -/
def ucMovl : Microprogram := [[.sig irlIbl, .iblPh .rd, .sig fin]]

/-- MOVH, address 13 (R326). -/
def ucMovh : Microprogram := [[.sig irlIbh, .ibhPh .rd, .sig fin]]

/-- PUSH, address 14 (R327). -/
def ucPush : Microprogram := 
  List.flatten [pushAddress, [[.phIb .rs, .sig ibMdr, .sig write], [], [.sig fin]]]

/-- POP, address 19 (R328). -/
def ucPop : Microprogram := List.flatten [popSequence, [[.sig mdrIb, .ibPh .rd, .sig fin]]]

/-- The three-operand shape (R351). -/
def threeOperand (op : Signal) : Microprogram :=
  [ [.phIb .rs2, .sig ibTmpe],
    [.phIb .rs1, .sig op, .sig aluTmps, .sig aluSr],
    [.sig tmpsIb, .ibPh .rd, .sig fin] ]

/-- ADD, address 23 (R341). -/
def ucAdd : Microprogram := threeOperand add

/-- SUB, address 26 (R342). -/
def ucSub : Microprogram := threeOperand sub

/-- OR, address 29 (R343). -/
def ucOr : Microprogram := threeOperand or

/-- AND, address 32 (R344). -/
def ucAnd : Microprogram := threeOperand and

/-- XOR, address 35 (R345). -/
def ucXor : Microprogram := threeOperand xor

/-- CMP, address 38 (R346). -/
def ucCmp : Microprogram := [[.phIb .rs2, .sig ibTmpe], [.phIb .rs1, .sig sub, .sig aluSr, .sig fin]]

/-- The last step of a one-operand instruction (R347). -/
def storeResult : Microprogram := [[.sig tmpsIb, .ibPh .rds, .sig fin]]

/-- NOT, address 40 (R347). -/
def ucNot : Microprogram := 
  List.flatten [[[.phIb .rds, .sig tmpeSet, .sig xor, .sig aluTmps, .sig aluSr]], storeResult]

/-- INC, address 42 (R348). -/
def ucInc : Microprogram :=
  List.flatten [[[.phIb .rds, .sig tmpeClr, .sig carryIn, .sig add, .sig aluTmps, .sig aluSr]], storeResult]

/-- DEC, address 44 (R349). -/
def ucDec : Microprogram := 
  List.flatten [[[.phIb .rds, .sig tmpeSet, .sig add, .sig aluTmps, .sig aluSr]], storeResult]

/-- NEG, address 46 (R350). -/
def ucNeg : Microprogram :=
  List.flatten
    [ [ [.phIb .rds, .sig tmpeSet, .sig xor, .sig aluTmps],
        [.sig tmpsIb, .ibPh .rds],
        [.phIb .rds, .sig tmpeClr, .sig carryIn, .sig add, .sig aluTmps, .sig aluSr] ],
      storeResult ]

/-- CLI, address 50 (R378). -/
def ucCli : Microprogram := [[.sig cli, .sig fin]]

/-- STI, address 51 (R379). -/
def ucSti : Microprogram := [[.sig sti, .sig fin]]

/-- INT, address 52 (R376). -/
def ucInt : Microprogram :=
  List.flatten
    [ pushAddress, storeSr, pushAddress, storePc,
      [[.sig irlIbl, .sig ibMar, .sig read], [], [.sig mdrIb, .sig ibPc, .sig cli, .sig fin]] ]

/-- IRET, address 63 (R377). -/
def ucIret : Microprogram :=
  List.flatten [popSequence, [[.sig mdrIb, .sig ibPc]], popSequence, [[.sig mdrIb, .sig ibSr, .sig fin]]]

/-- JR, address 71 (R361). -/
def ucJr : Microprogram := relativeJump

/-- JMP, address 74 (R362). -/
def ucJmp : Microprogram := [[.phIb .rx, .sig ibPc, .sig fin]]

/-- CALLR, address 75 (R363). -/
def ucCallr : Microprogram := List.flatten [pushAddress, storePc, relativeJump]

/-- CALL, address 82 (R364). -/
def ucCall : Microprogram :=
  List.flatten [pushAddress, storePc, [[.phIb .rx, .sig ibPc, .sig fin]]]

/-- RET, address 87 (R365). -/
def ucRet : Microprogram := List.flatten [popSequence, [[.sig mdrIb, .sig ibPc, .sig fin]]]

/-- A taken conditional branch, address 91 (R366). -/
def ucBranch : Microprogram := relativeJump

/-- BRFALSE, the pseudo-opcode's single step, address 94 (R262, R375). -/
def ucBrFalse : Microprogram := [[.sig fin]]

/-- The interrupt-service block, addresses 95 to 105 (R256). -/
def interruptBlock : Microprogram :=
  List.flatten
    [ pushAddress, storeSr, pushAddress,
      [ [.sig pcIb, .sig ibMdr, .sig write, .sig inta],
        [],
        [.sig mdrIb, .sig ibMar, .sig read],
        [],
        [.sig mdrIb, .sig ibPc, .sig cli, .sig fin] ] ]

/-- The opcode of the pseudo-instruction BRFALSE (R126). -/
def brFalseOpcode : BitVec 5 := 0b11111

/-- The instructions in registration order: ascending opcode, BRFALSE last (R251). -/
def registered : List (BitVec 5 × Microprogram) :=
  [ (0b00000, ucNop), (0b00001, ucMov), (0b00010, ucMovLoad), (0b00011, ucMovStore), (0b00100, ucMovl),
    (0b00101, ucMovh), (0b00110, ucPush), (0b00111, ucPop), (0b01000, ucAdd), (0b01001, ucSub), (0b01010, ucOr),
    (0b01011, ucAnd), (0b01100, ucXor), (0b01101, ucCmp), (0b10000, ucNot), (0b10001, ucInc), (0b10010, ucDec),
    (0b10011, ucNeg), (0b10100, ucCli), (0b10101, ucSti), (0b10110, ucInt), (0b10111, ucIret), (0b11000, ucJr),
    (0b11001, ucJmp), (0b11010, ucCallr), (0b11011, ucCall), (0b11100, ucRet), (0b11110, ucBranch),
    (brFalseOpcode, ucBrFalse) ]

/-- The microcode store under construction: the flat array and the opcode-to-first-index table (R250). -/
structure Store where
  steps : List MicroStep
  first : List (BitVec 5 × Nat)
deriving DecidableEq, Repr

/-- `addInstruction` (R251). -/
def addInstruction (st : Store) (e : BitVec 5 × Microprogram) : Store where
  steps := st.steps ++ e.2
  first := st.first ++ [(e.1, st.steps.length)]

/-- The store with every instruction registered, before the interrupt-service block (R251). -/
def instructionStore : Store := registered.foldl addInstruction { steps := fetchPreamble, first := [] }

/-- The whole flat array: fetch preamble, instructions, interrupt-service block (R250, R259). -/
def storeSteps : List MicroStep := instructionStore.steps ++ interruptBlock

/-- `intAddress`: the index where the interrupt-service block begins (R255). -/
def intAddress : Fin 106 := 95

/-- The step at a store address; the store has 106 steps (R250). -/
def storedStep (upc : Fin 106) : MicroStep := storeSteps.getD upc.val []

/-- `FIRST` (R257); an opcode with no entry is never looked up, since the decoder rejects it first. -/
def firstAddress (op : BitVec 5) : Fin 106 := Fin.ofNat 106 ((instructionStore.first.lookup op).getD 0)

end Sys2Proof.Machine
end

