-- ==== Sys2Proof/Machine/Validator.lean ====
section
/-! DEFINITION. The signal-set validator (42_validator.md R230 to R244): the nine rules, and the canonical order an accepted set
is given. -/

namespace Sys2Proof.Machine

/-- How many tokens satisfy `p`. -/
def countSignals (p : Signal → Bool) (S : List Signal) : Nat := (S.filter p).length

/-- Rule 2: no token twice (R232). Rule 1 holds by type: a `Signal` is a catalogue token (R231). -/
def noDuplicate (S : List Signal) : Bool := decide S.Nodup

/-- Rule 3: at most one download (R233). -/
def oneDownload (S : List Signal) : Bool := countSignals (fun g => g.kind == .download) S ≤ 1

/-- Rule 4: at most one upload per destination group (R234). -/
def oneUploadPerGroup (S : List Signal) : Bool :=
  S.all fun g => g.kind != .upload || countSignals (fun h => h.kind == .upload && h.group == g.group) S ≤ 1

/-- Rule 5: `inta` neither with `read` nor during a read (R235). -/
def intaWithoutRead (m : MemMode) (S : List Signal) : Bool :=
  !S.contains .inta || (!S.contains .read && m != .read)

/-- Rule 6: no `read`, `write`, `ib-mar` during an access, no `ib-mdr` during a write (R236). -/
def memoryNotBusy (m : MemMode) (S : List Signal) : Bool :=
  match m with
  | .idle => true
  | .read => !S.contains .read && !S.contains .write && !S.contains .ibMar
  | .write => !S.contains .read && !S.contains .write && !S.contains .ibMar && !S.contains .ibMdr

/-- Rule 7: at most one SR-group token, or exactly the pair `ib-sr`, `sr-ib` (R237). -/
def srGroupRule (S : List Signal) : Bool :=
  let n := countSignals (fun g => g.group == .sr) S
  n ≤ 1 || (n == 2 && S.contains .ibSr && S.contains .srIb)

/-- Rule 8: at most one token in each of IR, TMPE, TMPS, MEMORY (R238). -/
def singleGroups (S : List Signal) : Bool :=
  [Group.ir, .tmpe, .tmps, .memory].all fun k => countSignals (fun g => g.group == k) S ≤ 1

/-- Rule 9: two ALU-group tokens only if one is `carry-in` (R239). -/
def aluGroupRule (S : List Signal) : Bool :=
  let n := countSignals (fun g => g.group == .alu) S
  n ≤ 1 || (n == 2 && S.contains .carryIn)

/-- The set is accepted with the `mem_mode` of this moment: none of the nine rules rejects it (R230, R243). -/
def validSet (m : MemMode) (S : List Signal) : Bool :=
  noDuplicate S && oneDownload S && oneUploadPerGroup S && intaWithoutRead m S && memoryNotBusy m S
    && srGroupRule S && singleGroups S && aluGroupRule S

/-- Puts a token at its place by ascending index (R240). -/
def insertByIdx (g : Signal) : List Signal → List Signal
  | [] => [g]
  | h :: S => if g.idx ≤ h.idx then g :: h :: S else h :: insertByIdx g S

/-- The tokens in ascending catalogue index (R240). -/
def orderSignals : List Signal → List Signal
  | [] => []
  | g :: S => insertByIdx g (orderSignals S)

/-- `add(S, t)`: the set with the token added, or nothing where a rule rejects it (R241). -/
def addSignal (m : MemMode) (S : List Signal) (g : Signal) : Option (List Signal) :=
  if validSet m (g :: S) then some (insertByIdx g S) else none

end Sys2Proof.Machine
end

