-- ==== Sys2Proof/Machine/Ops.lean ====
section
/-! DEFINITION. The control unit's operations (44_control_unit.md): the end of an instruction with its interrupt test, decode and
dispatch, the memory and I/O ticks, one pulse, a microprogram run pulse by pulse; taking an interrupt and returning from one
(60_exceptions.md R417, R460). -/

namespace Sys2Proof.Machine

/-- Action 1 of `runStep`: `carry_in` is cleared at the start of every step (R284). -/
def State.clearCarry (s : State) : State := { s with alu := { s.alu with carryIn := false } }

/-- An interrupt is recognised: `intf` and SR.IF are both 1 (R288, R416). -/
def State.interruptTaken (s : State) : Bool := s.intf && srIf s.sr

/-- The end-of-instruction actions of a `fin` in a non-manual mode (R288). -/
def State.endInstruction (s : State) : State :=
  { s with
    upc := if s.interruptTaken then intAddress else 0
    stepCount := 0
    running := if s.mode = .instruction then false else s.running }

/-- The opcode whose microprogram runs: a conditional branch whose condition is false is remapped to BRFALSE (R290). -/
def dispatchOpcode (i : Instr) (sr : BitVec 5) : BitVec 5 :=
  match i.condition with
  | some k => if condTrue k sr then i.opcode else brFalseOpcode
  | none => i.opcode

/-- `DecodeAndDispatch` (R290). -/
def decodeAndDispatch (s : State) : Result :=
  match decodeInstruction s.ir with
  | .ok i => .next { s with cur := some s.ir, upc := firstAddress (dispatchOpcode i s.sr) }
  | .error .badInstruction => .fault (.badInstruction s.halt)
  | .error .duplicated => .fault (.duplicated s.halt)

/-- A non-manual step that ends no instruction and decodes none (R289). -/
def State.advance (s : State) : State := { s with stepCount := s.stepCount + 1, upc := s.upc + 1 }

/-- What `runStep` does after the step's signals (R283, R288, R289, R291, R293). -/
def sequenceStep (S : MicroStep) (s : State) : Result :=
  if s.mode = .manual then
    .next { s with stepCount := if S.any Token.isFin then s.stepCount else s.stepCount + 1, manualSet := [] }
  else if S.any Token.isFin then .next s.endInstruction
  else if S.any Token.isIbIr then decodeAndDispatch { s with stepCount := s.stepCount + 1 }
  else .next s.advance

/-- `MemTick` (R74, R76, R78). -/
def memTick (s : State) : Result :=
  match s.memMode with
  | .idle => .next s
  | .read =>
    if s.memCnt = 0 then .next { s with memCnt := 1 }
    else
      match s.getPos s.mar.toNat with
      | some (w, ds) => .next { s with mdr := w, devices := ds, memMode := .idle, memCnt := 0 }
      | none => .fault (.noModuleOrDevice s.halt)
  | .write =>
    if s.memCnt = 0 then .next { s with memCnt := 1 }
    else
      match s.setPos s.mar.toNat s.mdr with
      | some r => .next { s.withMemory r with memMode := .idle, memCnt := 0 }
      | none => .fault (.noModuleOrDevice s.halt)

/-- `DeviceTick` of the device at place `k` (R435). -/
def deviceTick (s : State) (k : Nat) : State :=
  match s.devices[k]? with
  | none => s
  | some d =>
    match d.intRead with
    | .idle => s
    | .armed0 => { s with devices := s.devices.set k { d with intRead := .armed1 } }
    | .armed1 =>
      let ds := s.devices.set k { d with intRead := .idle, pending := false }
      { s with
        devices := ds
        mdr := bytes 0 d.vector
        intf := if (intDevices ds).isEmpty then false else s.intf }

/-- `IoTick`: the devices that are requesting when it starts are ticked in registration order (R427, log 19). -/
def ioTick (s : State) : State := (requestingFrom 0 s.devices).foldl deviceTick s

/-- The stop test at the end of a pulse (R294). -/
def State.stopTest (s : State) : State :=
  { s with running := if s.mode = .manual || s.mode = .step then false else s.running }

/-- The rest of a pulse after the step's set is known: signals, sequencing, memory tick, I/O tick, stop test (R282, R283). -/
def pulseWith (field : Placeholder → Option Reg) (S : MicroStep) (s : State) : Result :=
  andThen (execTokens field S s.clearCarry) fun s1 =>
  andThen (sequenceStep S s1) fun s2 =>
  andThen (memTick s2) fun s3 =>
  .next (ioTick s3).stopTest

/-- The fields of the current decoded instruction (R42, R286). -/
def State.curField (s : State) (p : Placeholder) : Option Reg :=
  match s.cur with
  | none => none
  | some w =>
    match decodeInstruction w with
    | .ok i => i.field p
    | .error _ => none

/-- The step's set before the signals execute: the validated manual set in catalogue order, or the stored step (R285, R286);
none where the validator rejects the manual set. -/
def State.stepTokens (s : State) : Option MicroStep :=
  match s.mode with
  | .manual => if validSet s.memMode s.manualSet then some ((orderSignals s.manualSet).map .sig) else none
  | .step | .instruction | .auto => some (storedStep s.upc)

/-- One pulse (R282). A rejected manual set aborts it with nothing changed but `carry_in` and the clock (R242, R285). -/
def pulse (s : State) : Result :=
  match s.stepTokens with
  | some S => pulseWith s.curField S s
  | none => .fault (.signalConflict s.clearCarry.halt)

/-- The observable trace of the next pulse (R300). -/
def pulseTrace (s : State) : List (Nat × Signal) :=
  match s.stepTokens with
  | some S => traceTokens s.curField S s.clearCarry
  | none => []

/-- Pulses that run the listed steps one after the other. -/
def runSteps (field : Placeholder → Option Reg) : Microprogram → State → Result
  | [], s => .next s
  | S :: rest, s => andThen (pulseWith field S s) (runSteps field rest)

/-- The sequencer at a microprogram's first address with the instruction in IR: IR[7:0] is the instruction's operand byte where its
format has one (R26, R290). In the state a fetch of the instruction leaves, this changes nothing (log 5). -/
def State.enter (s : State) (i : Instr) (first : Fin 106) : State :=
  { s with
    upc := first
    ir := match i.operandByte with
      | some k => bytes (highByte s.ir) k
      | none => s.ir }

/-- An instruction's own steps: its microprogram from its first store address, with its fields for the placeholders (R259, R286). -/
def runProgram (i : Instr) (first : Fin 106) (prog : Microprogram) (s : State) : Result :=
  runSteps i.field prog (s.enter i first)

/-- A conditional branch: the relative jump at address 91 if the condition holds on SR, else BRFALSE at address 94 (R366, R375). -/
def conditionalBranch (i : Instr) (k : Condition) (s : State) : Result :=
  if condTrue k s.sr then runProgram i 91 ucBranch s else runProgram i 94 ucBrFalse s

/-- The clock is started by a run command (R40, R298). -/
def State.start (s : State) : State := { s with running := true }

/-- The fetch preamble's three pulses, with decode and dispatch at the end of the third (R252 to R254, R290, R320). -/
def fetch (s : State) : Result := andThen (pulse s) fun s1 => andThen (pulse s1) pulse

/-- Pulses up to and including the next one whose step contains `fin`, at most `fuel` of them (R298). -/
def runToFin (fuel : Nat) (s : State) : Result :=
  match fuel with
  | 0 => .next s
  | n + 1 => andThen (pulse s) fun s' => if (storedStep s.upc).any Token.isFin then .next s' else runToFin n s'

/-- The most pulses from an instruction boundary to the next `fin`: INT's fetch and 11 own steps (R500). -/
def maxPulses : Nat := 14

/-- Taking an interrupt: the interrupt-service block. It pushes SR and then PC, acknowledges the best pending device, jumps through
the vector table at the device's vector and clears IF (R256, R417). -/
def takeInterrupt (s : State) : Result := runSteps (fun _ => none) interruptBlock { s with upc := intAddress }

/-- Returning from an interrupt: IRET's microprogram pops PC and then the whole SR (R377, R460). -/
def returnFromInterrupt (s : State) : Result := runProgram .iret 63 ucIret s

end Sys2Proof.Machine
end

