-- ==== Sys2Proof/Machine/Arithmetic.lean ====
section
/-! DEFINITION. Arithmetic, logic and compare (46_instr_alu.md R340 to R351). -/

namespace Sys2Proof.Machine

/-- ADD Rd,Rs1,Rs2 (R341). -/
def execAdd (rd rs1 rs2 : Reg) (s : State) : Result :=
  runProgram (.add rd rs1 rs2) 23 ucAdd s

/-- SUB Rd,Rs1,Rs2 (R342). -/
def execSub (rd rs1 rs2 : Reg) (s : State) : Result :=
  runProgram (.sub rd rs1 rs2) 26 ucSub s

/-- OR Rd,Rs1,Rs2 (R343). -/
def execOr (rd rs1 rs2 : Reg) (s : State) : Result :=
  runProgram (.or rd rs1 rs2) 29 ucOr s

/-- AND Rd,Rs1,Rs2 (R344). -/
def execAnd (rd rs1 rs2 : Reg) (s : State) : Result :=
  runProgram (.and rd rs1 rs2) 32 ucAnd s

/-- XOR Rd,Rs1,Rs2 (R345). -/
def execXor (rd rs1 rs2 : Reg) (s : State) : Result :=
  runProgram (.xor rd rs1 rs2) 35 ucXor s

/-- CMP Rs1,Rs2 (R346). -/
def execCmp (rs1 rs2 : Reg) (s : State) : Result :=
  runProgram (.cmp rs1 rs2) 38 ucCmp s

/-- NOT Rds (R347). -/
def execNot (rds : Reg) (s : State) : Result :=
  runProgram (.not rds) 40 ucNot s

/-- INC Rds (R348). -/
def execInc (rds : Reg) (s : State) : Result :=
  runProgram (.inc rds) 42 ucInc s

/-- DEC Rds (R349). -/
def execDec (rds : Reg) (s : State) : Result :=
  runProgram (.dec rds) 44 ucDec s

/-- NEG Rds (R350). -/
def execNeg (rds : Reg) (s : State) : Result :=
  runProgram (.neg rds) 46 ucNeg s

end Sys2Proof.Machine
end

