-- ==== Sys2Proof/Machine/Branches.lean ====
section
/-! DEFINITION. The conditional branches (47_instr_control.md R366 to R375). -/

namespace Sys2Proof.Machine

/-- BRC d8 (R367). -/
def execBrc (d8 : Int) (s : State) : Result :=
  conditionalBranch (.brc d8) .c s

/-- BRNC d8 (R368). -/
def execBrnc (d8 : Int) (s : State) : Result :=
  conditionalBranch (.brnc d8) .nc s

/-- BRO d8 (R369). -/
def execBro (d8 : Int) (s : State) : Result :=
  conditionalBranch (.bro d8) .o s

/-- BRNO d8 (R370). -/
def execBrno (d8 : Int) (s : State) : Result :=
  conditionalBranch (.brno d8) .no s

/-- BRZ d8 (R371). -/
def execBrz (d8 : Int) (s : State) : Result :=
  conditionalBranch (.brz d8) .z s

/-- BRNZ d8 (R372). -/
def execBrnz (d8 : Int) (s : State) : Result :=
  conditionalBranch (.brnz d8) .nz s

/-- BRS d8 (R373). -/
def execBrs (d8 : Int) (s : State) : Result :=
  conditionalBranch (.brs d8) .s s

/-- BRNS d8 (R374). -/
def execBrns (d8 : Int) (s : State) : Result :=
  conditionalBranch (.brns d8) .ns s

end Sys2Proof.Machine
end

