-- ==== Sys2Proof/Machine/Interrupts.lean ====
section
/-! DEFINITION. The interrupt-enable flag, the software interrupt and the return from interrupt (47_instr_control.md R376 to R379). -/

namespace Sys2Proof.Machine

/-- CLI (R378). -/
def execCli (s : State) : Result :=
  runProgram .cli 50 ucCli s

/-- STI (R379). -/
def execSti (s : State) : Result :=
  runProgram .sti 51 ucSti s

/-- INT #imm8 (R376). -/
def execInt (imm8 : Byte) (s : State) : Result :=
  runProgram (.int imm8) 52 ucInt s

/-- IRET (R377). -/
def execIret (s : State) : Result :=
  returnFromInterrupt s

end Sys2Proof.Machine
end

