-- ==== Sys2Proof/Machine/Jumps.lean ====
section
/-! DEFINITION. Jumps, calls and the return (47_instr_control.md R360 to R365). -/

namespace Sys2Proof.Machine

/-- JR d8 (R361). -/
def execJr (d8 : Int) (s : State) : Result :=
  runProgram (.jr d8) 71 ucJr s

/-- JMP Rx (R362). -/
def execJmp (rx : Reg) (s : State) : Result :=
  runProgram (.jmp rx) 74 ucJmp s

/-- CALLR d8 (R363). -/
def execCallr (d8 : Int) (s : State) : Result :=
  runProgram (.callr d8) 75 ucCallr s

/-- CALL Rx (R364). -/
def execCall (rx : Reg) (s : State) : Result :=
  runProgram (.call rx) 82 ucCall s

/-- RET (R365). -/
def execRet (s : State) : Result :=
  runProgram .ret 87 ucRet s

end Sys2Proof.Machine
end

