-- ==== Sys2Proof/Machine/Moves.lean ====
section
/-! DEFINITION. NOP, register moves, load, store, immediates (45_instr_move.md R321 to R326). Each meaning runs the instruction's own steps from
the state its fetch leaves (R320). -/

namespace Sys2Proof.Machine

/-- NOP (R321). -/
def execNop (s : State) : Result :=
  runProgram .nop 3 ucNop s

/-- MOV Rd,Rs (R322). -/
def execMov (rd rs : Reg) (s : State) : Result :=
  runProgram (.mov rd rs) 4 ucMov s

/-- MOV Rd,[Ri] (R323). -/
def execMovLoad (rd ri : Reg) (s : State) : Result :=
  runProgram (.movLoad rd ri) 5 ucMovLoad s

/-- MOV [Ri],Rs (R324). -/
def execMovStore (ri rs : Reg) (s : State) : Result :=
  runProgram (.movStore ri rs) 8 ucMovStore s

/-- MOVL Rd,#imm8 (R325). -/
def execMovl (rd : Reg) (imm8 : Byte) (s : State) : Result :=
  runProgram (.movl rd imm8) 12 ucMovl s

/-- MOVH Rd,#imm8 (R326). -/
def execMovh (rd : Reg) (imm8 : Byte) (s : State) : Result :=
  runProgram (.movh rd imm8) 13 ucMovh s

end Sys2Proof.Machine
end

