-- ==== Sys2Proof/Machine/Stack.lean ====
section
/-! DEFINITION. PUSH and POP (45_instr_move.md R327, R328). -/

namespace Sys2Proof.Machine

/-- PUSH Rs (R327). -/
def execPush (rs : Reg) (s : State) : Result :=
  runProgram (.push rs) 14 ucPush s

/-- POP Rd (R328). -/
def execPop (rd : Reg) (s : State) : Result :=
  runProgram (.pop rd) 19 ucPop s

end Sys2Proof.Machine
end

