-- ==== Sys2Proof/Machine/Dispatch.lean ====
section
/-! DEFINITION. The dispatch of a decoded instruction to its meaning (30_encoding.md R123). -/

namespace Sys2Proof.Machine

/-- The instruction's own steps, from the state its fetch leaves to its `fin` (R320). -/
def exec (i : Instr) (s : State) : Host.Outcome State Fault Refusal :=
  match i with
  | .nop => Sys2Proof.Machine.execNop s
  | .mov rd rs => Sys2Proof.Machine.execMov rd rs s
  | .movLoad rd ri => Sys2Proof.Machine.execMovLoad rd ri s
  | .movStore ri rs => Sys2Proof.Machine.execMovStore ri rs s
  | .movl rd imm8 => Sys2Proof.Machine.execMovl rd imm8 s
  | .movh rd imm8 => Sys2Proof.Machine.execMovh rd imm8 s
  | .push rs => Sys2Proof.Machine.execPush rs s
  | .pop rd => Sys2Proof.Machine.execPop rd s
  | .add rd rs1 rs2 => Sys2Proof.Machine.execAdd rd rs1 rs2 s
  | .sub rd rs1 rs2 => Sys2Proof.Machine.execSub rd rs1 rs2 s
  | .or rd rs1 rs2 => Sys2Proof.Machine.execOr rd rs1 rs2 s
  | .and rd rs1 rs2 => Sys2Proof.Machine.execAnd rd rs1 rs2 s
  | .xor rd rs1 rs2 => Sys2Proof.Machine.execXor rd rs1 rs2 s
  | .cmp rs1 rs2 => Sys2Proof.Machine.execCmp rs1 rs2 s
  | .not rds => Sys2Proof.Machine.execNot rds s
  | .inc rds => Sys2Proof.Machine.execInc rds s
  | .dec rds => Sys2Proof.Machine.execDec rds s
  | .neg rds => Sys2Proof.Machine.execNeg rds s
  | .cli => Sys2Proof.Machine.execCli s
  | .sti => Sys2Proof.Machine.execSti s
  | .int imm8 => Sys2Proof.Machine.execInt imm8 s
  | .iret => Sys2Proof.Machine.execIret s
  | .jr d8 => Sys2Proof.Machine.execJr d8 s
  | .jmp rx => Sys2Proof.Machine.execJmp rx s
  | .callr d8 => Sys2Proof.Machine.execCallr d8 s
  | .call rx => Sys2Proof.Machine.execCall rx s
  | .ret => Sys2Proof.Machine.execRet s
  | .brc d8 => Sys2Proof.Machine.execBrc d8 s
  | .brnc d8 => Sys2Proof.Machine.execBrnc d8 s
  | .bro d8 => Sys2Proof.Machine.execBro d8 s
  | .brno d8 => Sys2Proof.Machine.execBrno d8 s
  | .brz d8 => Sys2Proof.Machine.execBrz d8 s
  | .brnz d8 => Sys2Proof.Machine.execBrnz d8 s
  | .brs d8 => Sys2Proof.Machine.execBrs d8 s
  | .brns d8 => Sys2Proof.Machine.execBrns d8 s

end Sys2Proof.Machine
end

