-- ==== Sys2Proof/Machine/Step.lean ====
section
/-! DEFINITION. One step of the machine: the pulses of one run command in the present mode (44_control_unit.md R280, R298; log 4), and
the placing of an instruction where the next step fetches it (log 7). -/

namespace Sys2Proof.Machine

/-- Runs the instruction that the fetch decoded; a word without a meaning has stopped the fetch before (R290, R402). -/
def execDecoded (s : State) : Result :=
  match decodeInstruction s.ir with
  | .ok i => exec i s
  | .error _ => .fault (.badInstruction s.halt)

/-- One pulse in modes `manual` and `step`; in modes `instruction` and `auto` the pulses up to and including the next `fin`:
a fetch with the decoded instruction's own steps, the interrupt-service block, or the rest of a microprogram in flight. -/
def step (s : State) : Host.Outcome State Fault Refusal :=
  match s.mode with
  | .manual | .step => pulse s.start
  | .instruction | .auto =>
    if s.upc = 0 then andThen (fetch s.start) execDecoded
    else if s.upc = intAddress then takeInterrupt s.start
    else runToFin maxPulses s.start

/-- The instruction whose bits are `w` placed at PC, in a machine at an instruction boundary that maps PC to RAM (log 7). -/
def State.withFetchWord (s : State) (nbits w : Nat) : State :=
  let r := s.placeWord s.pc.toNat (BitVec.ofNat 16 (w % 2 ^ nbits))
  { r with
    mode := if s.mode = .auto then .auto else .instruction
    upc := 0
    stepCount := 0
    memMode := .idle
    memCnt := 0
    devices := r.devices.map fun d => { d with intRead := .idle } }

end Sys2Proof.Machine
end

