-- ==== Sys2Proof/Machine/Commands.lean ====
section
/-! DEFINITION. The host between pulses (70_reset_and_hazards.md R470 to R487): the commands, the device events, the errors they
answer with, the program-line format and the snapshot. -/

namespace Sys2Proof.Machine

/-- The error kinds of host commands (60_exceptions.md R401, R409). None stops the machine. -/
inductive HostError where
  | validationError
  | rangeError
  | conflictError
  | signalConflictError
  | modeError
  | stateError
  /-- the Keyboard's own error (R401, R441); the host is told `HostError.reported` of it -/
  | bufferFull
deriving DecidableEq, Repr

/-- The kind under which an error is reported to the host: buffer-full as RangeError, every other under its own name (R409, D49). -/
def HostError.reported : HostError → HostError
  | .bufferFull => .rangeError
  | .validationError => .validationError
  | .rangeError => .rangeError
  | .conflictError => .conflictError
  | .signalConflictError => .signalConflictError
  | .modeError => .modeError
  | .stateError => .stateError

/-- What a command answers: the state after it, and the error if it failed. -/
structure Reply where
  state : State
  error : Option HostError
deriving DecidableEq, Repr

/-- Success. -/
def ok (s : State) : Reply := ⟨s, none⟩

/-- Failure with nothing changed. -/
def failWith (e : HostError) (s : State) : Reply := ⟨s, some e⟩

/-! ### Reset -/

/-- `reset()` (R470 to R477): memory, modules, the registry, the mode and the parameters are
kept. -/
def State.resetCpu (s : State) : State :=
  { s with
    regs := Vector.replicate 8 0
    pc := s.cfg.bootPc
    ir := 0
    sr := 0
    tmpe := 0
    tmps := 0
    ib := 0
    mar := 0
    mdr := 0
    alu := Alu.reset
    upc := 0
    stepCount := 0
    running := false
    intf := false
    cur := none
    manualSet := []
    memMode := .idle
    memCnt := 0 }

/-! ### Program lines -/

/-- The blanks of a line (R483, log 15). -/
def isBlank (c : Char) : Bool := c == ' ' || c == '\t' || c == '\r' || c == '\n'

/-- The value of a hexadecimal digit, upper or lower case (R483). -/
def hexValue (c : Char) : Option Nat :=
  let n := c.toNat
  if 48 ≤ n ∧ n ≤ 57 then some (n - 48)
  else if 65 ≤ n ∧ n ≤ 70 then some (n - 55)
  else if 97 ≤ n ∧ n ≤ 102 then some (n - 87)
  else none

/-- The number that a list of digits stands for, most significant first, after `acc`. -/
def hexNumber (acc : Nat) : List Char → Option Nat
  | [] => some acc
  | c :: cs =>
    match hexValue c with
    | some d => hexNumber (acc * 16 + d) cs
    | none => none

/-- A line without its surrounding blanks. -/
def trimLine (l : List Char) : List Char :=
  ((l.dropWhile isBlank).reverse.dropWhile isBlank).reverse

/-- A line of one to four hexadecimal digits (R483). -/
def parseLine (l : List Char) : Option Word :=
  let t := trimLine l
  if 1 ≤ t.length ∧ t.length ≤ 4 then (hexNumber 0 t).map (BitVec.ofNat 16) else none

/-- Every line's word, blank lines dropped; none if a line is malformed (R481, R483). -/
def parseLines (ls : List (List Char)) : Option (List Word) :=
  (ls.filter fun l => !(trimLine l).isEmpty).mapM parseLine

/-- Words stored at consecutive addresses modulo 2^16; the first unmapped one ends the load, the words before it stay written
(R481, R482). -/
def storeWords (a : Word) : List Word → State → Reply
  | [], s => ok s
  | w :: ws, s =>
    match s.setPos a.toNat w with
    | some r => storeWords (a + 1) ws (s.withMemory r)
    | none => failWith .stateError s

/-- `loadProgram` (R481). -/
def loadProgram (ls : List (List Char)) (s : State) : Reply :=
  match parseLines ls with
  | some (start :: pc :: sp :: ws) => storeWords start ws ({ s with pc := pc }.setReg spReg sp)
  | some _ | none => failWith .validationError s

/-- `loadMemory` (R401, R482). -/
def loadMemory (offset : Nat) (ls : List (List Char)) (s : State) : Reply :=
  match parseLines ls with
  | some ws => if offset ≤ 0xFFFF then storeWords (BitVec.ofNat 16 offset) ws s else failWith .rangeError s
  | none => failWith .validationError s

/-! ### Memory map and registry -/

/-- No module and no device has an address in the range (R66). -/
def State.free (s : State) (a len : Nat) : Bool :=
  s.modules.all (fun m => m.outside a len) && s.devices.all (fun d => d.outside a len)

/-- `addModule` (R64, R409). -/
def addModule (a k : Nat) (s : State) : Reply :=
  if !s.cfg.moduleSizesK.contains k then failWith .rangeError s
  else if a + k * 1024 > 0x10000 then failWith .rangeError s
  else if a % (k * 1024) ≠ 0 then failWith .rangeError s
  else if !s.free a (k * 1024) then failWith .conflictError s
  else ok { s with modules := s.modules ++ [⟨a, k⟩], cells := s.cells.clear a (k * 1024) }

/-- `removeModule`: the module's cells lose their content (R65, log 9). -/
def removeModule (a : Nat) (s : State) : Reply :=
  match s.modules.find? fun m => m.start == a with
  | some m => ok { s with modules := s.modules.erase m, cells := s.cells.clear m.start (m.sizeK * 1024) }
  | none => failWith .stateError s

/-- The kinds of device (R421). -/
inductive DeviceKind where
  | keyboard
  | lights
  | screen
deriving DecidableEq, Repr

/-- The addresses a device of the kind takes (R440, R447, R451). -/
def DeviceKind.size (cfg : Config) : DeviceKind → Nat
  | .keyboard => 2
  | .lights => 1
  | .screen => cfg.screenCells + 1

/-- The kind's own state at creation (R440, R447, R451). -/
def DeviceKind.unit (cfg : Config) : DeviceKind → DeviceUnit
  | .keyboard => .keyboard [] false
  | .lights => .lights 0 0
  | .screen => .screen (List.replicate cfg.screenCells 0) false

/-- The device that `addDevice` registers (R421, R424); the Screen's enable bit is 0 (R451). -/
def newDevice (cfg : Config) (kind : DeviceKind) (name : String) (base vector priority : Nat) (enabled : Bool) : Device where
  name := name
  base := base
  size := kind.size cfg
  vector := BitVec.ofNat 8 vector
  priority := priority
  intEnabled := enabled && kind != .screen
  pending := false
  intRead := .idle
  unit := kind.unit cfg

/-- `addDevice` (R409, R421). -/
def addDevice (kind : DeviceKind) (name : String) (base vector priority : Nat) (enabled : Bool) (s : State) : Reply :=
  let size := kind.size s.cfg
  if base ≤ 256 then failWith .conflictError s
  else if base + size > 0x10000 then failWith .rangeError s
  else if s.devices.any fun d => d.name == name then failWith .conflictError s
  else if !s.free base size then failWith .conflictError s
  else ok { s with devices := s.devices ++ [newDevice s.cfg kind name base vector priority enabled] }

/-- `removeDevice`: `intf` is not recomputed (R422). -/
def removeDevice (name : String) (s : State) : Reply :=
  match s.devices.find? fun d => d.name == name with
  | some d => ok { s with devices := s.devices.erase d }
  | none => failWith .stateError s

/-! ### Single cells, manual mode, run commands -/

/-- A register that the host can write (R20, R485). -/
inductive HostReg where
  | r (n : Reg)
  | pc
  | ir
  | sr
  | tmpe
  | tmps
  | ib
  | mar
  | mdr
deriving DecidableEq, Repr

/-- A register written with a word; SR takes the five bits it has (log 10). -/
def HostReg.set (r : HostReg) (v : Word) (s : State) : State :=
  match r with
  | .r n => s.setReg n v
  | .pc => { s with pc := v }
  | .ir => { s with ir := v }
  | .sr => { s with sr := v.setWidth 5 }
  | .tmpe => { s with tmpe := v }
  | .tmps => { s with tmps := v }
  | .ib => { s with ib := v }
  | .mar => { s with mar := v }
  | .mdr => { s with mdr := v }

/-- The register write of R485; `none` stands for a value that is not a number (R20, R409). -/
def writeRegister (r : HostReg) (v : Option Nat) (s : State) : Reply :=
  match v with
  | some n => if n ≤ 0xFFFF then ok (r.set (BitVec.ofNat 16 n) s) else failWith .rangeError s
  | none => failWith .rangeError s

/-- `SetPos(a, v)` of R485; an unmapped address is a StateError (R68), a value that is no word a RangeError (R20). -/
def writeCell (a : Nat) (v : Option Nat) (s : State) : Reply :=
  match v with
  | some n =>
    if n ≤ 0xFFFF then
      match s.setPos a (BitVec.ofNat 16 n) with
      | some r => ok (s.withMemory r)
      | none => failWith .stateError s
    else failWith .rangeError s
  | none => failWith .rangeError s

/-- `setManualMode` (R297). Manual mode off goes to `instruction` (log 12). -/
def setManualMode (on : Bool) (s : State) : Reply :=
  if on then ok { s with mode := .manual }
  else if s.mode = .manual then ok { s with mode := .instruction, manualSet := [] }
  else ok s

/-- Tokens added one at a time (R231, R241). -/
def addTokens (m : MemMode) : List String → List Signal → Option (List Signal)
  | [], S => some S
  | t :: ts, S =>
    match signalOfToken t with
    | none => none
    | some g =>
      match addSignal m S g with
      | none => none
      | some S' => addTokens m ts S'

/-- `loadManualSignals` (R241, R408); a rejected list changes nothing (R407, log 11). -/
def loadManualSignals (ts : List String) (s : State) : Reply :=
  if s.mode ≠ .manual then failWith .modeError s
  else
    match addTokens s.memMode ts s.manualSet with
    | some S => ok { s with manualSet := S }
    | none => failWith .signalConflictError s

/-- The command `step` starts the clock for one pulse: in mode `manual` the manual step, else a microstep (R298). -/
def startStep (s : State) : Reply :=
  if s.mode = .manual then ok s.start else ok { s.start with mode := .step }

/-- The commands `run-instruction` and `run` (R298); not in manual mode (R297, R408). -/
def startRun (m : Mode) (s : State) : Reply :=
  if s.mode = .manual then failWith .modeError s else ok { s.start with mode := m }

/-! ### Device events -/

/-- `Raise` of the device at place `k` (R432). -/
def raiseAt (k : Nat) (s : State) : State :=
  match s.devices[k]? with
  | some d => if d.intEnabled then { s with devices := s.devices.set k { d with pending := true }, intf := true } else s
  | none => s

/-- `Key(name, code)` (R441); a name of no Keyboard is a StateError (log 14). -/
def keyEvent (name : String) (code : Nat) (s : State) : Reply :=
  let k := s.devices.findIdx fun d => d.name == name
  match s.devices[k]? with
  | some d =>
    match d.unit with
    | .keyboard queue _ =>
      if s.cfg.kbdCapacity ≤ queue.length then failWith .bufferFull s
      else
        let u := DeviceUnit.keyboard (queue ++ [BitVec.ofNat 16 code]) true
        ok (raiseAt k { s with devices := s.devices.set k { d with unit := u } })
    | .lights _ _ | .screen _ _ => failWith .stateError s
  | none => failWith .stateError s

/-- `setSwitches(name, v)` (R447, R449): no request. That a value above 0xFFFF is a RangeError is the model's choice (log 23). -/
def setSwitches (name : String) (v : Nat) (s : State) : Reply :=
  let k := s.devices.findIdx fun d => d.name == name
  match s.devices[k]? with
  | some d =>
    match d.unit with
    | .lights _ l =>
      if v ≤ 0xFFFF then ok { s with devices := s.devices.set k { d with unit := .lights (BitVec.ofNat 16 v) l } }
      else failWith .rangeError s
    | .keyboard _ _ | .screen _ _ => failWith .stateError s
  | none => failWith .stateError s

/-- `lightsInterrupt(name)` (R449). -/
def lightsInterrupt (name : String) (s : State) : Reply :=
  let k := s.devices.findIdx fun d => d.name == name
  match s.devices[k]? with
  | some d =>
    match d.unit with
    | .lights _ _ => ok (raiseAt k s)
    | .keyboard _ _ | .screen _ _ => failWith .stateError s
  | none => failWith .stateError s

/-- `setDeviceIntEnabled(name, bit)`: neither `pending` nor `intf` changes (R449, R502); the Screen's bit stays 0 (R451). -/
def setDeviceIntEnabled (name : String) (on : Bool) (s : State) : Reply :=
  let k := s.devices.findIdx fun d => d.name == name
  match s.devices[k]? with
  | some d =>
    match d.unit with
    | .screen _ _ => ok s
    | .keyboard _ _ | .lights _ _ => ok { s with devices := s.devices.set k { d with intEnabled := on } }
  | none => failWith .stateError s

/-! ### The command interface -/

/-- A snapshot: a state, of which `restore` takes every row of R49's table but the clock, which is stopped in every backup (R486);
the parameters in it are not used (log 22). -/
abbrev Snapshot := State

/-- `backup()` (R486); a ModeError while the clock runs (R408). -/
def backup (s : State) : Except HostError Snapshot := if s.running then .error .modeError else .ok s

/-- `restore(z)` (R486): the machine keeps its own parameters and its clock is stopped (log 22). -/
def restore (z : Snapshot) (s : State) : Reply := ok { z with cfg := s.cfg, running := false }

/-- The host's `PeekPos(a)` (R69, R485); a ModeError while the clock runs (log 13). -/
def probe (a : Nat) (s : State) : Except HostError (Option Word) :=
  if s.running then .error .modeError else .ok (s.peekPos a)

/-- The commands of R485 that change the state, and the device events of R487. -/
inductive Command where
  | reset
  | loadProgram (lines : List (List Char))
  | loadMemory (offset : Nat) (lines : List (List Char))
  | step
  | runInstruction
  | run
  | stop
  | setManualMode (on : Bool)
  | loadManualSignals (tokens : List String)
  | addModule (a k : Nat)
  | removeModule (a : Nat)
  | addDevice (kind : DeviceKind) (name : String) (base vector priority : Nat) (enabled : Bool)
  | removeDevice (name : String)
  | restore (snapshot : Snapshot)
  | writeRegister (r : HostReg) (v : Option Nat)
  | setPos (a : Nat) (v : Option Nat)
  | key (name : String) (code : Nat)
  | setSwitches (name : String) (v : Nat)
  | lightsInterrupt (name : String)
  | setDeviceIntEnabled (name : String) (on : Bool)
deriving DecidableEq, Repr

/-- The commands accepted while the clock runs: `stop`, `reset` and the device events; every other one, a run command among them,
changes nothing and is a ModeError (R298, R408, R485, R487, U36; log 13). -/
def Command.whileRunning : Command → Bool
  | .reset | .stop => true
  | .key _ _ | .setSwitches _ _ | .lightsInterrupt _ | .setDeviceIntEnabled _ _ => true
  | .step | .runInstruction | .run => false
  | .loadProgram _ | .loadMemory _ _ | .setManualMode _ | .loadManualSignals _ => false
  | .addModule _ _ | .removeModule _ | .addDevice _ _ _ _ _ _ | .removeDevice _ => false
  | .restore _ | .writeRegister _ _ | .setPos _ _ => false

/-- A command's effect where it is accepted (R485, R487). The pulses of a run command are those of `step`. -/
def Command.effect (c : Command) (s : State) : Reply :=
  match c with
  | .reset => ok s.resetCpu
  | .loadProgram ls => Sys2Proof.Machine.loadProgram ls s
  | .loadMemory o ls => Sys2Proof.Machine.loadMemory o ls s
  | .step => startStep s
  | .runInstruction => startRun .instruction s
  | .run => startRun .auto s
  | .stop => ok s.halt
  | .setManualMode on => Sys2Proof.Machine.setManualMode on s
  | .loadManualSignals ts => Sys2Proof.Machine.loadManualSignals ts s
  | .addModule a k => Sys2Proof.Machine.addModule a k s
  | .removeModule a => Sys2Proof.Machine.removeModule a s
  | .addDevice kind name base vector priority enabled =>
      Sys2Proof.Machine.addDevice kind name base vector priority enabled s
  | .removeDevice name => Sys2Proof.Machine.removeDevice name s
  | .restore snapshot => Sys2Proof.Machine.restore snapshot s
  | .writeRegister r v => Sys2Proof.Machine.writeRegister r v s
  | .setPos a v => writeCell a v s
  | .key name code => keyEvent name code s
  | .setSwitches name v => Sys2Proof.Machine.setSwitches name v s
  | .lightsInterrupt name => Sys2Proof.Machine.lightsInterrupt name s
  | .setDeviceIntEnabled name on => Sys2Proof.Machine.setDeviceIntEnabled name on s

/-- A reply with its error under the kind that the host is told (R409). -/
def Reply.report (r : Reply) : Reply := { r with error := r.error.map HostError.reported }

/-- A host command between two pulses (R6, R485). -/
def command (c : Command) (s : State) : Reply :=
  (if s.running && !c.whileRunning then failWith .modeError s else c.effect s).report

end Sys2Proof.Machine
end

