-- ==== Sys2Proof/Safety.lean ====
section
/-! DEFINITION. What a well-formed machine state is (10_state.md R48, 20_memory.md R66, 60_exceptions.md R421, R440, R451), when a
machine is at rest between instructions (R320), and what a safe step is, in the terms the statements use. -/

namespace Sys2Proof.Machine

/-- No memory access and no interrupt read is in progress (R74, R435). -/
structure Quiet (s : State) : Prop where
  idle : s.memMode = .idle
  count : s.memCnt = 0
  devices : ∀ d ∈ s.devices, d.intRead = .idle

/-- The clock runs by itself to the next `fin` (R280). -/
abbrev State.runsToFin (s : State) : Prop := s.mode = .instruction ∨ s.mode = .auto

/-- An instruction boundary (R23, R299, R320). -/
structure Boundary (s : State) : Prop where
  quiet : Quiet s
  upc : s.upc = 0
  mode : s.runsToFin

/-- A module has a configured size, is aligned and fits the space (R64). -/
structure ModuleOk (cfg : Config) (m : Module) : Prop where
  size : m.sizeK ∈ cfg.moduleSizesK
  aligned : m.start % (m.sizeK * 1024) = 0
  fits : m.start + m.sizeK * 1024 ≤ 0x10000

/-- A device's unit: its size, and what holds of its kind's state at every pulse boundary (R440, R447, R451). -/
def unitOk (cfg : Config) (d : Device) : Bool :=
  match d.unit with
  | .keyboard queue ready => d.size == 2 && decide (queue.length ≤ cfg.kbdCapacity) && ready == !queue.isEmpty
  | .lights _ _ => d.size == 1
  | .screen cells _ => d.size == cfg.screenCells + 1 && cells.length == cfg.screenCells && !d.intEnabled

/-- A device lies above the vector table and fits the space (R70, R421). -/
structure DeviceOk (cfg : Config) (d : Device) : Prop where
  base : 256 < d.base
  fits : d.base + d.size ≤ 0x10000
  unit : unitOk cfg d

/-- The invariants of every reachable state (R48), with the memory in its canonical form (log 2). Register ranges and the range of
`upc` hold by type. -/
structure Inv (s : State) : Prop where
  memory : s.cells.wf s.cfg.memFill
  mapped : ∀ e ∈ s.cells, s.inModule e.1
  modules : ∀ m ∈ s.modules, ModuleOk s.cfg m
  devices : ∀ d ∈ s.devices, DeviceOk s.cfg d
  modulesApart : s.modules.Pairwise fun m n => m.outside n.start (n.sizeK * 1024)
  devicesApart : s.devices.Pairwise fun d e => d.outside e.base e.size
  apart : ∀ m ∈ s.modules, ∀ d ∈ s.devices, m.outside d.base d.size
  names : (s.devices.map Device.name).Nodup
  manual : validSet .idle s.manualSet

/-- The step went on: no error stopped the machine (R296). -/
abbrev Safe (r : Result) : Prop := ∃ s, r = .next s

/-- The end of an instruction whose own effects are those of `s`: `carry_in` is 0, and the end-of-instruction actions have run
(R284, R288). -/
def State.finish (s : State) : State := s.clearCarry.endInstruction

/-! ### Words the statements use -/

/-- IR with the instruction's operand byte; where the fetch of that instruction left IR, this is the state itself (log 5). -/
def State.latch (s : State) (k : Byte) : State := { s with ir := bytes (highByte s.ir) k }

/-- The ALU after an operation on `a` and `b` with the result `r`, carry `cf` and overflow `of` (R35, R140). -/
def aluOf (a b r : Word) (cf of : Bool) : Alu where
  a := a
  b := b
  carryIn := false
  result := r
  zf := r == 0
  cf := cf
  of := of
  sf := r.msb

/-- The ALU has performed an operation (R140). -/
def State.withAlu (s : State) (a b r : Word) (cf of : Bool) : State := { s with alu := aluOf a b r cf of }

/-- The ALU has performed an operation and its flags are in SR, with SR.IF kept (R140, R179). -/
def State.withFlags (s : State) (a b r : Word) (cf of : Bool) : State :=
  { s with alu := aluOf a b r cf of, sr := packSr (srIf s.sr) r.msb of cf (r == 0) }

/-- The state that the fetch of the word `w`, which decodes to `i`, leaves; `ds` are the devices after the read (R320). -/
def State.fetched (s : State) (w : Word) (ds : List Device) (i : Instr) : State :=
  { s.withAlu s.pc 0 (s.pc + 1) (s.pc == 0xFFFF) (s.pc == 0x7FFF) with
    pc := s.pc + 1
    ir := w
    mdr := w
    ib := w
    mar := s.pc
    tmpe := 0
    tmps := s.pc + 1
    cur := some w
    devices := ds
    upc := firstAddress (dispatchOpcode i s.sr)
    stepCount := s.stepCount + 3 }

/-- IR, MAR, IB, TMPE, TMPS and the ALU at the end of the fetch's second pulse; the word itself is not yet in IR (R252, R253). -/
def State.fetching (s : State) : State :=
  { s.withAlu s.pc 0 (s.pc + 1) (s.pc == 0xFFFF) (s.pc == 0x7FFF) with
    pc := s.pc + 1
    ib := s.pc + 1
    mar := s.pc
    tmpe := 0
    tmps := s.pc + 1
    upc := 2
    stepCount := s.stepCount + 2 }

/-- An error's state: the clock stopped in the middle of a memory access (R78, R404); `upc` and the steps done are given. -/
def State.stuckAt (s : State) (m : MemMode) (upc : Fin 106) (steps : Nat) : State :=
  { s with memMode := m, memCnt := 1, upc := upc, stepCount := s.stepCount + steps, running := false }

/-- The state in which the ALU has decremented the stack pointer and R7 and MAR hold the result (R261, R327). -/
def State.pushed (s : State) : State :=
  let sp := s.reg spReg - 1
  { (s.withAlu (s.reg spReg) 0xFFFF sp (s.reg spReg != 0) (s.reg spReg == 0x8000)).setReg spReg sp with
    tmpe := 0xFFFF
    tmps := sp
    mar := sp }

/-- The state in which a word has been read at the stack pointer into MDR and R7 has been incremented (R261, R328). -/
def State.popped (s : State) (v : Word) (ds : List Device) : State :=
  let sp := s.reg spReg + 1
  { (s.withAlu (s.reg spReg) 0 sp (s.reg spReg == 0xFFFF) (s.reg spReg == 0x7FFF)).setReg spReg sp with
    tmpe := 0
    tmps := sp
    mar := s.reg spReg
    mdr := v
    devices := ds }

/-- The state after the relative jump by the byte that stands for `d` (R360). -/
def State.jumped (s : State) (d : Int) : State :=
  let k := BitVec.ofInt 16 d
  let t := s.pc + k
  { (s.latch (BitVec.ofInt 8 d)).withAlu k s.pc t (k.uaddOverflow s.pc) (k.saddOverflow s.pc) with
    tmpe := s.pc
    tmps := t
    ib := t
    pc := t }

end Sys2Proof.Machine

namespace Sys2Proof

/-- The instructions whose own steps access memory. -/
def Instr.accessesMemory : Instr → Bool
  | .movLoad _ _ | .movStore _ _ | .push _ | .pop _ | .int _ | .iret | .callr _ | .call _ | .ret => true
  | .nop | .mov _ _ | .movl _ _ | .movh _ _ => false
  | .add _ _ _ | .sub _ _ _ | .or _ _ _ | .and _ _ _ | .xor _ _ _ | .cmp _ _ => false
  | .not _ | .inc _ | .dec _ | .neg _ | .cli | .sti | .jr _ | .jmp _ => false
  | .brc _ | .brnc _ | .bro _ | .brno _ | .brz _ | .brnz _ | .brs _ | .brns _ => false

/-- The address of the word that an instruction stores (R324, R327, R363, R364); INT stores two and stands apart. -/
def Instr.storeAddress (s : Machine.State) : Instr → Option Word
  | .movStore ri _ => some (s.reg ri)
  | .push _ | .callr _ | .call _ => some (s.reg spReg - 1)
  | _ => none

/-- The word that an instruction stores at `storeAddress` (R324, R327, R363, R364). -/
def Instr.storedWord (s : Machine.State) : Instr → Option Word
  | .movStore _ rs => some (s.reg rs)
  | .push rs => some ((s.setReg spReg (s.reg spReg - 1)).reg rs)
  | .callr _ | .call _ => some s.pc
  | _ => none

/-- The general registers that an instruction may change (R22, R322 to R379). -/
def Instr.mayWrite : Instr → List Reg
  | .mov rd _ | .movLoad rd _ | .movl rd _ | .movh rd _ => [rd]
  | .pop rd => [rd, spReg]
  | .add rd _ _ | .sub rd _ _ | .or rd _ _ | .and rd _ _ | .xor rd _ _ => [rd]
  | .not rds | .inc rds | .dec rds | .neg rds => [rds]
  | .push _ | .int _ | .iret | .callr _ | .call _ | .ret => [spReg]
  | .nop | .movStore _ _ | .cmp _ _ | .cli | .sti | .jr _ | .jmp _ => []
  | .brc _ | .brnc _ | .bro _ | .brno _ | .brz _ | .brnz _ | .brs _ | .brns _ => []

/-- The instructions that copy the ALU flags into SR (R340). -/
def Instr.setsFlags : Instr → Bool
  | .add _ _ _ | .sub _ _ _ | .or _ _ _ | .and _ _ _ | .xor _ _ _ | .cmp _ _ => true
  | .not _ | .inc _ | .dec _ | .neg _ => true
  | .nop | .mov _ _ | .movLoad _ _ | .movStore _ _ | .movl _ _ | .movh _ _ | .push _ | .pop _ => false
  | .cli | .sti | .int _ | .iret | .jr _ | .jmp _ | .callr _ | .call _ | .ret => false
  | .brc _ | .brnc _ | .bro _ | .brno _ | .brz _ | .brnz _ | .brs _ | .brns _ => false

/-- The instructions that change SR.IF, or load the whole SR (R376 to R379, R415). -/
def Instr.setsIf : Instr → Bool
  | .cli | .sti | .int _ | .iret => true
  | .add _ _ _ | .sub _ _ _ | .or _ _ _ | .and _ _ _ | .xor _ _ _ | .cmp _ _ => false
  | .not _ | .inc _ | .dec _ | .neg _ => false
  | .nop | .mov _ _ | .movLoad _ _ | .movStore _ _ | .movl _ _ | .movh _ _ | .push _ | .pop _ => false
  | .jr _ | .jmp _ | .callr _ | .call _ | .ret => false
  | .brc _ | .brnc _ | .bro _ | .brno _ | .brz _ | .brnz _ | .brs _ | .brns _ => false

end Sys2Proof
end

