-- ==== Sys2Proof/Certificates/Slice0/Obligations.lean ====
section
/-! DEFINITION. The statements for the provers. Each docstring names the rules of spec/ it rests on. A result is a whole next state: what
its record does not name is unchanged. Where an instruction has an operand byte, its result is written with `latch`, which changes
nothing in a state that a fetch of the instruction leaves (log 5); `step` is the pulses of one run command (log 4); the
parameters of the design are the state's `cfg`, and every statement holds for all their values (log 3). -/

open Sys2Proof Sys2Proof.Machine

/-! ### Encoding -/

/-- The round-trip law of R124 with the decoder of R118, for every instruction and every operand its field can hold. -/
def Obligations.DecodeOfEncode : Prop :=
  ∀ i : Instr, i.WellFormed → decodeInstruction (encode i) = .ok i

/-- Every decoded instruction is well formed and re-encodes to the word with its ignored bits zero (R118, R120, R124). -/
def Obligations.ReencodeKeepsUsedBits : Prop :=
  ∀ (w : Word) (i : Instr), decodeInstruction w = .ok i → i.WellFormed ∧ encode i = w &&& i.usedBits

/-- Bits outside the format's fields do not change the decoding (R120, R128). -/
def Obligations.IgnoredBitsDoNotMatter : Prop :=
  ∀ (w v : Word) (i : Instr), decodeInstruction w = .ok i → v &&& i.usedBits = w &&& i.usedBits →
    decodeInstruction v = .ok i

/-- BadInstruction exactly for the four reserved opcodes, Duplicated never (R119, R126, R127). -/
def Obligations.ReservedOpcodesRefused : Prop :=
  ∀ w : Word,
    (decodeInstruction w = .error .badInstruction ↔
      opcodeOf w = 0b01110 ∨ opcodeOf w = 0b01111 ∨ opcodeOf w = 0b11101 ∨ opcodeOf w = 0b11111)
    ∧ decodeInstruction w ≠ .error .duplicated

/-- Seven words, written out from six of the formats of R109 (LD, RRR, RI, I, D, and CD twice), decode to what they stand for. -/
def Obligations.SampleWordsDecode : Prop :=
  decodeInstruction 0b00010_011_100_00000 = .ok (.movLoad 3 4)
  ∧ decodeInstruction 0b01001_001_010_011_00 = .ok (.sub 1 2 3)
  ∧ decodeInstruction 0b00100_000_00000101 = .ok (.movl 0 5)
  ∧ decodeInstruction 0b10110_000_00100000 = .ok (.int 0x20)
  ∧ decodeInstruction 0b11000_000_11111111 = .ok (.jr (-1))
  ∧ decodeInstruction 0b11110_101_11111101 = .ok (.brnz (-3))
  ∧ decodeInstruction 0b11110_011_00000101 = .ok (.brno 5)

/-! ### Fetch and step -/

/-- The fetch preamble (R252 to R254, R290, R320): three pulses read one word at PC, increment PC and dispatch to the decoded
instruction's first step. -/
def Obligations.FetchReadsOneWord : Prop :=
  ∀ (s : State) (w : Word) (ds : List Device) (i : Instr), Boundary s → s.getPos s.pc.toNat = some (w, ds) →
    decodeInstruction w = .ok i → fetch s = .next (s.fetched w ds i)

/-- A step at an instruction boundary runs exactly the decoded instruction on the state its fetch leaves, with the clock
started. -/
def Obligations.StepRunsDecodedInstruction : Prop :=
  ∀ (s : State) (w : Word) (ds : List Device) (i : Instr), Boundary s → s.getPos s.pc.toNat = some (w, ds) →
    decodeInstruction w = .ok i → i.WellFormed ∧ step s = exec i (s.start.fetched w ds i)

/-- A fetch from an unmapped address stops the machine at the end of its second pulse, with PC already incremented and IR not
loaded (R254, R404). -/
def Obligations.FetchFromUnmappedAddress : Prop :=
  ∀ s : State, Boundary s → s.getPos s.pc.toNat = none →
    step s = .fault (.noModuleOrDevice (s.fetching.stuckAt .read 2 0))

/-- A word with a reserved opcode stops the machine at the end of the third fetch pulse: IR, MDR and IB hold it, PC is past it,
`cur` is unchanged and `upc` is 2 (R127, R402). -/
def Obligations.FetchOfReservedOpcode : Prop :=
  ∀ (s : State) (w : Word) (ds : List Device), Boundary s → s.getPos s.pc.toNat = some (w, ds) →
    decodeInstruction w = .error .badInstruction →
    step s = .fault (.badInstruction
      { s.fetching with ir := w, mdr := w, ib := w, devices := ds, stepCount := s.stepCount + 3, running := false })

/-- The signal level governs (R10): in the modes that run to `fin`, a step is nothing but stored pulses up to the next `fin`,
from every state, whatever the sequencer, the memory or a device is in the middle of. -/
def Obligations.StepIsItsPulses : Prop :=
  ∀ s : State, s.runsToFin → step s = runToFin maxPulses s.start

/-- A step in the modes that run to `fin` ends at an instruction boundary or at the interrupt block's start (R288, R299). One that
starts at a boundary ends with no memory access in flight, and its only errors are a word without a meaning and an unmapped
address: it never meets a busy memory, an acknowledge without a device or an unknown token (R258 (c), R402, R404). -/
def Obligations.StepEndsAtBoundary : Prop :=
  ∀ s : State, s.runsToFin →
    (∀ t : State, step s = .next t →
      (t.upc = 0 ∨ t.upc = intAddress) ∧ t.stepCount = 0 ∧ t.alu.carryIn = false ∧ t.mode = s.mode
      ∧ t.running = decide (s.mode = .auto) ∧ (Boundary s → Quiet t))
    ∧ ∀ e : Fault, Boundary s → step s = .fault e → ∃ t, e = .badInstruction t ∨ e = .noModuleOrDevice t

/-- The manual step (R240, R242, R285, R293): a rejected set aborts the pulse with nothing changed but `carry_in` and the clock; the
outcome of an accepted one does not depend on the order in which the host named its tokens, leaves `upc` and empties the set. -/
def Obligations.ManualStepDependsOnTheSet : Prop :=
  ∀ (s : State) (S T : List Signal), s.mode = .manual → S.Perm T →
    (validSet s.memMode S = false →
      step { s with manualSet := S } =
        .fault (.signalConflict { s.clearCarry with manualSet := S, running := false }))
    ∧ ∀ t : State, step { s with manualSet := S } = .next t →
        step { s with manualSet := T } = .next t
        ∧ t.upc = s.upc ∧ t.manualSet = [] ∧ t.running = false ∧ t.mode = .manual

/-! ### Moves, immediates, stack -/

/-- R321 and R322: NOP does nothing but end the instruction; MOV copies a register. -/
def Obligations.MoveRegisterResult : Prop :=
  ∀ s : State, Quiet s → s.runsToFin →
    exec .nop s = .next s.finish
    ∧ ∀ rd rs : Reg, exec (.mov rd rs) s = .next ({ s with ib := s.reg rs }.setReg rd (s.reg rs)).finish

/-- R323: the load, from a module or a device. -/
def Obligations.LoadResult : Prop :=
  ∀ (rd ri : Reg) (s : State) (w : Word) (ds : List Device), Quiet s → s.runsToFin →
    s.getPos (s.reg ri).toNat = some (w, ds) →
    exec (.movLoad rd ri) s =
      .next ({ s with mar := s.reg ri, mdr := w, ib := w, devices := ds }.setReg rd w).finish

/-- R324: the store, to a module or a device. -/
def Obligations.StoreResult : Prop :=
  ∀ (ri rs : Reg) (s : State) (r : Memory × List Device), Quiet s → s.runsToFin →
    s.setPos (s.reg ri).toNat (s.reg rs) = some r →
    exec (.movStore ri rs) s =
      .next ({ s with mar := s.reg ri, mdr := s.reg rs, ib := s.reg rs }.withMemory r).finish

/-- The errors of R323 and R324: nothing is mapped at the address. -/
def Obligations.UnmappedDataAccess : Prop :=
  ∀ s : State, Quiet s → s.runsToFin →
    (∀ rd ri : Reg, s.getPos (s.reg ri).toNat = none →
      exec (.movLoad rd ri) s =
        .fault (.noModuleOrDevice ({ s with mar := s.reg ri, ib := s.reg ri }.clearCarry.stuckAt .read 7 2)))
    ∧ ∀ ri rs : Reg, s.setPos (s.reg ri).toNat (s.reg rs) = none →
      exec (.movStore ri rs) s =
        .fault (.noModuleOrDevice
          ({ s with mar := s.reg ri, mdr := s.reg rs, ib := s.reg rs }.clearCarry.stuckAt .write 11 3))

/-- R325 and R326: one byte is loaded, the other is kept. `latch` changes nothing in the state the fetch leaves. -/
def Obligations.LoadImmediateResult : Prop :=
  ∀ (rd : Reg) (k : Byte) (s : State), Quiet s → s.runsToFin →
    exec (.movl rd k) s =
      .next ({ s.latch k with ib := bytes 0 k }.setReg rd (bytes (highByte (s.reg rd)) k)).finish
    ∧ exec (.movh rd k) s =
      .next ({ s.latch k with ib := bytes k 0 }.setReg rd (bytes k (lowByte (s.reg rd)))).finish
    ∧ (lowByte s.ir = k → s.latch k = s)

/-- R327: the word stored is read after R7 was decremented. -/
def Obligations.PushResult : Prop :=
  ∀ (rs : Reg) (s : State) (r : Memory × List Device), Quiet s → s.runsToFin →
    s.setPos (s.reg spReg - 1).toNat (s.pushed.reg rs) = some r →
    exec (.push rs) s =
      .next ({ s.pushed with mdr := s.pushed.reg rs, ib := s.pushed.reg rs }.withMemory r).finish

/-- R328: R7 is incremented, then Rd is loaded; the load wins where Rd is R7. -/
def Obligations.PopResult : Prop :=
  ∀ (rd : Reg) (s : State) (v : Word) (ds : List Device), Quiet s → s.runsToFin →
    s.getPos (s.reg spReg).toNat = some (v, ds) →
    exec (.pop rd) s = .next ({ s.popped v ds with ib := v }.setReg rd v).finish

/-- The errors of R327, R328, R363, R364 and R365: nothing is mapped at the stack address. A push has decremented R7 by then, a
pop has not incremented it. -/
def Obligations.UnmappedStackAccess : Prop :=
  ∀ s : State, Quiet s → s.runsToFin →
    (∀ rs : Reg, s.setPos (s.reg spReg - 1).toNat (s.pushed.reg rs) = none →
      exec (.push rs) s =
        .fault (.noModuleOrDevice
          ({ s.pushed with mdr := s.pushed.reg rs, ib := s.pushed.reg rs }.stuckAt .write 18 4)))
    ∧ (s.setPos (s.reg spReg - 1).toNat s.pc = none → ∀ (d : Int) (rx : Reg),
      exec (.callr d) s =
        .fault (.noModuleOrDevice
          (({ s.pushed with mdr := s.pc, ib := s.pc }.latch (BitVec.ofInt 8 d)).stuckAt .write 79 4))
      ∧ exec (.call rx) s =
        .fault (.noModuleOrDevice ({ s.pushed with mdr := s.pc, ib := s.pc }.stuckAt .write 86 4)))
    ∧ (s.getPos (s.reg spReg).toNat = none → ∀ rd : Reg,
      let t := { s.popped s.mdr s.devices with regs := s.regs, ib := s.reg spReg }
      exec (.pop rd) s = .fault (.noModuleOrDevice (t.stuckAt .read 21 2))
      ∧ exec .ret s = .fault (.noModuleOrDevice (t.stuckAt .read 89 2)))

/-! ### Arithmetic, logic, compare -/

/-- R341, R351, R340 (a): carry is unsigned overflow of the sum, OF signed overflow. -/
def Obligations.AddResult : Prop :=
  ∀ (rd rs1 rs2 : Reg) (s : State), Quiet s → s.runsToFin →
    let a := s.reg rs1
    let b := s.reg rs2
    let r := a + b
    exec (.add rd rs1 rs2) s =
      .next (({ s with tmpe := b, ib := r, tmps := r }.withFlags a b r (a.uaddOverflow b) (a.saddOverflow b)).setReg
        rd r).finish

/-- R342, R351, R340 (b): OF is signed overflow of the difference, CF is `SubCarry` in the instance the machine has. -/
def Obligations.SubtractResult : Prop :=
  ∀ (rd rs1 rs2 : Reg) (s : State), Quiet s → s.runsToFin →
    let a := s.reg rs1
    let b := s.reg rs2
    let r := a - b
    exec (.sub rd rs1 rs2) s =
      .next (({ s with tmpe := b, ib := r, tmps := r }.withFlags a b r (subCarry s.cfg.subCarryRule a b)
        (a.ssubOverflow b)).setReg rd r).finish

/-- R343, R344, R345, R351, R340 (c): CF and OF become the ALU's carry and overflow as the fetch left them. -/
def Obligations.LogicResult : Prop :=
  ∀ (rd rs1 rs2 : Reg) (s : State), Quiet s → s.runsToFin →
    let a := s.reg rs1
    let b := s.reg rs2
    let result (r : Word) : Result :=
      .next (({ s with tmpe := b, ib := r, tmps := r }.withFlags a b r s.alu.cf s.alu.of).setReg rd r).finish
    exec (.or rd rs1 rs2) s = result (a ||| b)
    ∧ exec (.and rd rs1 rs2) s = result (a &&& b)
    ∧ exec (.xor rd rs1 rs2) s = result (a ^^^ b)

/-- R346: the flags of the subtraction, no register written. -/
def Obligations.CompareResult : Prop :=
  ∀ (rs1 rs2 : Reg) (s : State), Quiet s → s.runsToFin →
    let a := s.reg rs1
    let b := s.reg rs2
    exec (.cmp rs1 rs2) s =
      .next ({ s with tmpe := b, ib := a }.withFlags a b (a - b) (subCarry s.cfg.subCarryRule a b)
        (a.ssubOverflow b)).finish

/-- R347, R340 (c). -/
def Obligations.NotResult : Prop :=
  ∀ (rds : Reg) (s : State), Quiet s → s.runsToFin →
    let a := s.reg rds
    let r := ~~~a
    exec (.not rds) s =
      .next (({ s with tmpe := 0xFFFF, ib := r, tmps := r }.withFlags a 0xFFFF r s.alu.cf s.alu.of).setReg rds r).finish

/-- R348 and R349: INC carries out of 0xFFFF and overflows at 0x7FFF; DEC's carry is 1 when there is no borrow. -/
def Obligations.IncrementDecrementResult : Prop :=
  ∀ (rds : Reg) (s : State), Quiet s → s.runsToFin →
    let a := s.reg rds
    exec (.inc rds) s =
      .next (({ s with tmpe := 0, ib := a + 1, tmps := a + 1 }.withFlags a 0 (a + 1) (a == 0xFFFF) (a == 0x7FFF)).setReg
        rds (a + 1)).finish
    ∧ exec (.dec rds) s =
      .next (({ s with tmpe := 0xFFFF, ib := a - 1, tmps := a - 1 }.withFlags a 0xFFFF (a - 1) (a != 0)
        (a == 0x8000)).setReg rds (a - 1)).finish

/-- R350: complement, then increment; the flags are the increment's. -/
def Obligations.NegateResult : Prop :=
  ∀ (rds : Reg) (s : State), Quiet s → s.runsToFin →
    let a := s.reg rds
    let r := -a
    exec (.neg rds) s =
      .next (({ s with tmpe := 0, ib := r, tmps := r }.withFlags (~~~a) 0 r (a == 0) (a == 0x8000)).setReg rds r).finish

/-- R340 (c), R494: after a logic instruction fetched from PC0, SR.CF is 1 exactly at PC0 = 0xFFFF and SR.OF exactly at
PC0 = 0x7FFF, whatever they were before. -/
def Obligations.LogicFlagsAreTheFetchs : Prop :=
  ∀ (s t : State) (w : Word) (ds : List Device) (i : Instr), Boundary s → s.getPos s.pc.toNat = some (w, ds) →
    decodeInstruction w = .ok i →
    (∃ rd a b, i = .or rd a b ∨ i = .and rd a b ∨ i = .xor rd a b ∨ i = .not rd) → step s = .next t →
    srCf t.sr = (s.pc == 0xFFFF) ∧ srOf t.sr = (s.pc == 0x7FFF)

/-! ### Interrupt flag, software interrupt, return from interrupt -/

/-- R378 and R379: IF alone changes, before the interrupt test of the same `fin`. -/
def Obligations.InterruptFlagResult : Prop :=
  ∀ s : State, Quiet s → s.runsToFin →
    exec .cli s = .next { s with sr := packSr false (srSf s.sr) (srOf s.sr) (srCf s.sr) (srZf s.sr) }.finish
    ∧ exec .sti s = .next { s with sr := packSr true (srSf s.sr) (srOf s.sr) (srCf s.sr) (srZf s.sr) }.finish

/-- R376: SR, then PC are pushed, PC is loaded from the vector table after both writes, IF is cleared. -/
def Obligations.SoftwareInterruptResult : Prop :=
  ∀ (k : Byte) (s : State) (r1 r2 : Memory × List Device) (h : Word) (ds : List Device), Quiet s → s.runsToFin →
    let sp1 := s.reg spReg - 1
    let sp2 := s.reg spReg - 2
    s.setPos sp1.toNat (s.sr.setWidth 16) = some r1 →
    (s.withMemory r1).setPos sp2.toNat s.pc = some r2 →
    (s.withMemory r2).getPos k.toNat = some (h, ds) →
    exec (.int k) s =
      .next { (((s.latch k).withMemory r2).withAlu sp1 0xFFFF sp2 (sp1 != 0) (sp1 == 0x8000)).setReg spReg sp2 with
        pc := h
        sr := packSr false (srSf s.sr) (srOf s.sr) (srCf s.sr) (srZf s.sr)
        tmpe := 0xFFFF
        tmps := sp2
        mar := bytes 0 k
        mdr := h
        ib := h
        devices := ds }.finish

/-- R377: PC, then the whole SR are popped; bits 15:5 of the SR word are discarded. -/
def Obligations.InterruptReturnResult : Prop :=
  ∀ (s : State) (p v : Word) (ds1 ds2 : List Device), Quiet s → s.runsToFin →
    let sp := s.reg spReg
    s.getPos sp.toNat = some (p, ds1) →
    { s with devices := ds1 }.getPos (sp + 1).toNat = some (v, ds2) →
    exec .iret s =
      .next { (s.withAlu (sp + 1) 0 (sp + 2) (sp + 1 == 0xFFFF) (sp + 1 == 0x7FFF)).setReg spReg (sp + 2) with
        pc := p
        sr := v.setWidth 5
        tmpe := 0
        tmps := sp + 2
        mar := sp + 1
        mdr := v
        ib := v
        devices := ds2 }.finish

/-- The unmapped addresses of R376, R377 and R417, each with what the instruction or the interrupt-service block has done by then. In
the block the second stack address fails with the device still pending and its acknowledge half done, the vector's address with
the device already acknowledged. That a push of the block into a device's range acts on the device, so that `r1.2` may differ
from the devices before, is the model's reading of R427, DEDUCED (log 19). -/
def Obligations.UnmappedInterruptFrame : Prop :=
  ∀ s : State, Quiet s → s.runsToFin →
    let srWord : Word := s.sr.setWidth 16
    (∀ k : Byte, s.setPos (s.reg spReg - 1).toNat srWord = none →
      exec (.int k) s =
        .fault (.noModuleOrDevice
          (({ s.pushed with mdr := srWord, ib := srWord }.latch k).stuckAt .write 56 4)))
    ∧ (∀ (k : Byte) (r1 : Memory × List Device), s.setPos (s.reg spReg - 1).toNat srWord = some r1 →
      (s.withMemory r1).setPos (s.reg spReg - 2).toNat s.pc = none →
      exec (.int k) s =
        .fault (.noModuleOrDevice
          (({ (s.withMemory r1).pushed.pushed with mdr := s.pc, ib := s.pc }.latch k).stuckAt .write 60 8)))
    ∧ (∀ (k : Byte) (r1 r2 : Memory × List Device), s.setPos (s.reg spReg - 1).toNat srWord = some r1 →
      (s.withMemory r1).setPos (s.reg spReg - 2).toNat s.pc = some r2 →
      (s.withMemory r2).getPos k.toNat = none →
      exec (.int k) s =
        .fault (.noModuleOrDevice
          (({ (s.withMemory r2).pushed.pushed with mdr := s.pc, mar := bytes 0 k, ib := bytes 0 k }.latch
            k).stuckAt .read 62 10)))
    ∧ (s.getPos (s.reg spReg).toNat = none →
      exec .iret s =
        .fault (.noModuleOrDevice
          ({ s.popped s.mdr s.devices with regs := s.regs, ib := s.reg spReg }.stuckAt .read 65 2)))
    ∧ (∀ (p : Word) (ds : List Device), s.getPos (s.reg spReg).toNat = some (p, ds) →
      { s with devices := ds }.getPos (s.reg spReg + 1).toNat = none →
      exec .iret s =
        .fault (.noModuleOrDevice
          ({ (s.popped p ds).popped p ds with
              regs := (s.popped p ds).regs, pc := p, ib := s.reg spReg + 1 }.stuckAt .read 69 6)))
    ∧ (s.upc = intAddress →
      (s.setPos (s.reg spReg - 1).toNat srWord = none →
        step s = .fault (.noModuleOrDevice ({ s.pushed with mdr := srWord, ib := srWord }.stuckAt .write 99 4)))
      ∧ (∀ (r1 : Memory × List Device) (k : Nat) (d : Device), s.setPos (s.reg spReg - 1).toNat srWord = some r1 →
        nextInt r1.2 = some k → r1.2[k]? = some d →
        (s.withMemory r1).setPos (s.reg spReg - 2).toNat s.pc = none →
        step s =
          .fault (.noModuleOrDevice
            ({ (s.withMemory r1).pushed.pushed with
                mdr := s.pc
                ib := s.pc
                devices := r1.2.set k { d with intRead := .armed1 } }.stuckAt .write 103 8)))
      ∧ ∀ (k : Nat) (d : Device), s.inModule (s.reg spReg - 1).toNat → s.inModule (s.reg spReg - 2).toNat →
        nextInt s.devices = some k → s.devices[k]? = some d → s.getPos (bytes 0 d.vector).toNat = none →
        let ds := s.devices.set k { d with pending := false }
        step s =
          .fault (.noModuleOrDevice
            ({ s.pushed.pushed with
                cells := (s.cells.write s.cfg.memFill (s.reg spReg - 1).toNat srWord).write s.cfg.memFill
                  (s.reg spReg - 2).toNat s.pc
                devices := ds
                intf := if intDevices ds = [] then false else s.intf
                mar := bytes 0 d.vector
                mdr := bytes 0 d.vector
                ib := bytes 0 d.vector }.stuckAt .read 105 10)))

/-! ### Jumps, calls, branches -/

/-- R360, R361, R362: a relative jump's displacement counts words from the next instruction, modulo 2^16; JMP takes PC from its
register. -/
def Obligations.JumpResult : Prop :=
  ∀ s : State, Quiet s → s.runsToFin →
    (∀ d : Int, displacementFits d →
      exec (.jr d) s = .next (s.jumped d).finish ∧ (s.jumped d).pc = s.pc + BitVec.ofInt 16 d)
    ∧ ∀ rx : Reg, exec (.jmp rx) s = .next { s with ib := s.reg rx, pc := s.reg rx }.finish

/-- R363 and R364: the return address is pushed; CALL reads its register after R7 was decremented. -/
def Obligations.CallResult : Prop :=
  ∀ (s : State) (r : Memory × List Device), Quiet s → s.runsToFin →
    s.setPos (s.reg spReg - 1).toNat s.pc = some r →
    (∀ d : Int, displacementFits d →
      exec (.callr d) s = .next (({ s.pushed with mdr := s.pc }.withMemory r).jumped d).finish)
    ∧ ∀ rx : Reg,
      exec (.call rx) s =
        .next ({ s.pushed with mdr := s.pc, ib := s.pushed.reg rx, pc := s.pushed.reg rx }.withMemory r).finish

/-- R365. -/
def Obligations.ReturnResult : Prop :=
  ∀ (s : State) (v : Word) (ds : List Device), Quiet s → s.runsToFin →
    s.getPos (s.reg spReg).toNat = some (v, ds) →
    exec .ret s = .next { s.popped v ds with ib := v, pc := v }.finish

/-- R366 to R375: a conditional branch jumps relative if its condition holds on SR, and does nothing else if not. -/
def Obligations.ConditionalBranchResult : Prop :=
  ∀ (d : Int) (s : State), displacementFits d → Quiet s → s.runsToFin →
    let branch (taken : Bool) : Result :=
      if taken then .next (s.jumped d).finish else .next (s.latch (BitVec.ofInt 8 d)).finish
    exec (.brc d) s = branch (srCf s.sr)
    ∧ exec (.brnc d) s = branch (!srCf s.sr)
    ∧ exec (.bro d) s = branch (srOf s.sr)
    ∧ exec (.brno d) s = branch (!srOf s.sr)
    ∧ exec (.brz d) s = branch (srZf s.sr)
    ∧ exec (.brnz d) s = branch (!srZf s.sr)
    ∧ exec (.brs d) s = branch (srSf s.sr)
    ∧ exec (.brns d) s = branch (!srSf s.sr)

/-! ### What instructions leave alone -/

/-- Every instruction changes only the general registers its rule names: its destination, and R7 for the stack instructions. -/
def Obligations.OtherRegistersUnchanged : Prop :=
  ∀ (i : Instr) (s t : State) (n : Reg), Quiet s → s.runsToFin → exec i s = .next t → n ∉ i.mayWrite →
    t.reg n = s.reg n

/-- SR as a whole is kept by every instruction but those of 46_instr_alu.md and CLI, STI, INT, IRET; the former keep IF, CLI,
STI and INT keep the four condition flags (R340, R376, R378, R379, R415). -/
def Obligations.StatusRegisterFrame : Prop :=
  ∀ (i : Instr) (s t : State), Quiet s → s.runsToFin → exec i s = .next t →
    (i.setsFlags = false → i.setsIf = false → t.sr = s.sr)
    ∧ (i.setsFlags = true → srIf t.sr = srIf s.sr)
    ∧ ((i = .cli ∨ i = .sti ∨ ∃ k, i = .int k) →
        srSf t.sr = srSf s.sr ∧ srOf t.sr = srOf s.sr ∧ srCf t.sr = srCf s.sr ∧ srZf t.sr = srZf s.sr)

/-- An instruction without a memory access of its own leaves every cell, every device and every address's content alone; no
instruction changes the memory map, the parameters, the mode, `intf` or the decoded word. -/
def Obligations.MemoryUntouchedWithoutAccess : Prop :=
  ∀ (i : Instr) (s t : State), Quiet s → s.runsToFin → exec i s = .next t →
    (i.accessesMemory = false → t.cells = s.cells ∧ t.devices = s.devices ∧ ∀ a, t.peekPos a = s.peekPos a)
    ∧ t.modules = s.modules ∧ t.cfg = s.cfg ∧ t.mode = s.mode ∧ t.intf = s.intf ∧ t.cur = s.cur
    ∧ t.manualSet = s.manualSet ∧ Quiet t

/-- The one word that MOV [Ri],Rs, PUSH, CALLR and CALL store goes to the address computed from the operands; every other cell is
unchanged, and where that address is RAM it reads back and nothing else of memory changes (R68, R81, R324, R327, R363, R364). -/
def Obligations.StoreChangesOneWord : Prop :=
  ∀ (i : Instr) (s t : State) (a v : Word), Quiet s → s.runsToFin → s.cells.wf s.cfg.memFill →
    i.storeAddress s = some a → i.storedWord s = some v → exec i s = .next t →
    (∀ b : Nat, b ≠ a.toNat → t.cells.read t.cfg.memFill b = s.cells.read s.cfg.memFill b)
    ∧ (s.inModule a.toNat → t.devices = s.devices ∧ t.peekPos a.toNat = some v
        ∧ ∀ b : Nat, b ≠ a.toNat → t.peekPos b = s.peekPos b)

/-- INT stores SR at R7 - 1 and PC at R7 - 2, and no other word (R376). -/
def Obligations.SoftwareInterruptStoresTwoWords : Prop :=
  ∀ (k : Byte) (s t : State), Quiet s → s.runsToFin → s.cells.wf s.cfg.memFill → exec (.int k) s = .next t →
    let sp1 := (s.reg spReg - 1).toNat
    let sp2 := (s.reg spReg - 2).toNat
    (∀ b : Nat, b ≠ sp1 → b ≠ sp2 → t.cells.read t.cfg.memFill b = s.cells.read s.cfg.memFill b)
    ∧ (s.inModule sp1 → t.peekPos sp1 = some (s.sr.setWidth 16))
    ∧ (s.inModule sp2 → t.peekPos sp2 = some s.pc)

/-! ### Interrupts -/

/-- The registry's choice (R425, R426). -/
def Obligations.BestPendingDeviceIsServed : Prop :=
  ∀ ds : List Device,
    intDevices ds = ds.filter (fun d => d.intEnabled && d.pending)
    ∧ (nextInt ds = none ↔ intDevices ds = [])
    ∧ ∀ k : Nat, nextInt ds = some k ↔
        ∃ d, ds[k]? = some d ∧ d.requesting = true
          ∧ ∀ (j : Nat) (e : Device), ds[j]? = some e → e.requesting = true →
              d.priority ≤ e.priority ∧ (j < k → d.priority < e.priority)

/-- Taking an interrupt (R256, R417, R499), with the stack and the vector's word in RAM: SR and PC are pushed, the best pending
device is acknowledged and drops its request, PC is loaded from the device's vector, IF is cleared. -/
def Obligations.InterruptBlockResult : Prop :=
  ∀ (s : State) (k : Nat) (d : Device), Quiet s → s.upc = intAddress → s.runsToFin →
    let sp1 := s.reg spReg - 1
    let sp2 := s.reg spReg - 2
    let v : Word := bytes 0 d.vector
    s.inModule sp1.toNat → s.inModule sp2.toNat → s.inModule v.toNat →
    nextInt s.devices = some k → s.devices[k]? = some d →
    let m := (s.cells.write s.cfg.memFill sp1.toNat (s.sr.setWidth 16)).write s.cfg.memFill sp2.toNat s.pc
    let ds := s.devices.set k { d with pending := false }
    let h := m.read s.cfg.memFill v.toNat
    step s =
      .next { (s.start.withAlu sp1 0xFFFF sp2 (sp1 != 0) (sp1 == 0x8000)).setReg spReg sp2 with
        pc := h
        sr := packSr false (srSf s.sr) (srOf s.sr) (srCf s.sr) (srZf s.sr)
        tmpe := 0xFFFF
        tmps := sp2
        mar := v
        mdr := h
        ib := h
        cells := m
        devices := ds
        intf := if intDevices ds = [] then false else s.intf }.finish

/-- An interrupt with no device to acknowledge stops at the block's seventh pulse: both decrements done, SR pushed, the write of PC
armed but not performed (R405, R502; its unmapped addresses are in `UnmappedInterruptFrame`). The devices are those after SR's
push, `r.2`: that a push into a device's range acts on the device is the model's reading of R427, DEDUCED (log 19). -/
def Obligations.InterruptBlockWithoutDevice : Prop :=
  ∀ (s : State) (r : Memory × List Device), Quiet s → s.upc = intAddress → s.runsToFin →
    s.setPos (s.reg spReg - 1).toNat (s.sr.setWidth 16) = some r → nextInt r.2 = none →
    step s =
      .fault (.noPendingDevice
        { (s.withMemory r).pushed.pushed with
          mdr := s.pc
          ib := s.pc
          memMode := .write
          memCnt := 0
          upc := 101
          stepCount := s.stepCount + 6
          running := false })

/-- A hardware interrupt followed by IRET, with the stack in RAM, gives back PC, SR and R7, and every general register that the handler
has restored (R377, R417, R460): for every handler that leaves R7 and the two words of the frame as the interrupt left them, and
the frame in RAM. -/
def Obligations.InterruptThenReturnRestores : Prop :=
  ∀ s t u : State, Quiet s → s.upc = intAddress → s.runsToFin → s.cells.wf s.cfg.memFill →
    let sp1 := (s.reg spReg - 1).toNat
    let sp2 := (s.reg spReg - 2).toNat
    s.inModule sp1 → s.inModule sp2 → step s = .next t →
    Quiet u → u.runsToFin → u.reg spReg = t.reg spReg → u.inModule sp1 → u.inModule sp2 →
    u.cells.read u.cfg.memFill sp1 = t.cells.read t.cfg.memFill sp1 →
    u.cells.read u.cfg.memFill sp2 = t.cells.read t.cfg.memFill sp2 →
    ∃ z, exec .iret u = .next z ∧ z.pc = s.pc ∧ z.sr = s.sr ∧ z.reg spReg = s.reg spReg
      ∧ (∀ n : Reg, n ≠ spReg → z.reg n = u.reg n ∧ t.reg n = s.reg n)
      ∧ z.cells = u.cells ∧ z.devices = u.devices

/-! ### The ALU -/

/-- R141, with the overflow test equal to the signed-overflow condition. -/
def Obligations.AluAddition : Prop :=
  ∀ (a b : Word) (x : Alu),
    let y := aluAdd a b x
    let raw := a.toNat + b.toNat + x.carryIn.toNat
    let exact := a.toInt + b.toInt + x.carryIn.toNat
    y.a = a ∧ y.b = b ∧ y.carryIn = x.carryIn ∧ y.result.toNat = raw % 2 ^ 16
    ∧ y.cf = decide (raw > 0xFFFF) ∧ y.of = decide (exact < -32768 ∨ 32767 < exact)
    ∧ y.zf = decide (y.result = 0) ∧ y.sf = y.result.getLsbD 15

/-- R142 and R147: the difference, its signed overflow, and the two instances of the carry with where they agree. -/
def Obligations.AluSubtraction : Prop :=
  ∀ (a b : Word) (x : Alu) (rule : SubCarryRule),
    let y := aluSub rule a b x
    let exact := a.toInt - b.toInt
    y.a = a ∧ y.b = b ∧ y.carryIn = x.carryIn ∧ y.result = a - b
    ∧ y.of = decide (exact < -32768 ∨ 32767 < exact)
    ∧ y.zf = decide (y.result = 0) ∧ y.sf = y.result.getLsbD 15
    ∧ y.cf = (match rule with
        | .bit15OfRaw => y.sf
        | .borrow => decide (a.toNat < b.toNat))
    ∧ (subCarry .bit15OfRaw a b = subCarry .borrow a b ↔ a.getLsbD 15 = b.getLsbD 15 ∨ y.of = true)

/-- R143, R144 and R145: the result bit by bit, ZF and SF from it, carry and overflow unchanged. -/
def Obligations.AluLogic : Prop :=
  ∀ (a b : Word) (x : Alu),
    let after (r : Word) : Alu := { x with a := a, b := b, result := r, zf := decide (r = 0), sf := r.getLsbD 15 }
    aluOr a b x = after (a ||| b) ∧ aluAnd a b x = after (a &&& b) ∧ aluXor a b x = after (a ^^^ b)

/-! ### Signal sets and the store -/

/-- The decision table of R245, row by row; its first three rows are the source's own examples. -/
def Obligations.ValidatorTable : Prop :=
  validSet .idle [.regIb 0, .regIb 1] = false
  ∧ validSet .idle [.ibSr, .srIb] = true
  ∧ validSet .read [.inta] = false
  ∧ validSet .idle [.inta, .read] = false
  ∧ validSet .idle [.pcIb, .ibMdr, .write, .inta] = true
  ∧ validSet .idle [.pcIb, .tmpeClr, .carryIn, .add, .aluTmps, .ibMar, .read] = true
  ∧ validSet .read [.regIb 1, .ibMdr] = true
  ∧ validSet .write [.regIb 1, .ibMdr] = false
  ∧ validSet .read [.regIb 1, .ibMar] = false
  ∧ validSet .write [.read] = false
  ∧ validSet .idle [.cli, .sti] = false
  ∧ validSet .idle [.tmpeClr, .ibTmpe] = false
  ∧ validSet .idle [.tmpsIb, .aluTmps] = false
  ∧ validSet .idle [.mdrIb, .ibIr] = true
  ∧ validSet .idle [.irlIbl, .ibIr] = false
  ∧ validSet .idle [.add, .sub] = false
  ∧ validSet .idle [.carryIn, .add, .xor] = false
  ∧ validSet .idle [.regIb 2, .ibReg 2] = true
  ∧ validSet .idle [.regIb 2, .ibhReg 3, .iblReg 3] = false
  ∧ validSet .idle [] = true

/-- The nine rules are monotone, and the verdict does not depend on the order of the tokens (R241). -/
def Obligations.ValidatorMonotone : Prop :=
  ∀ (m : MemMode) (S T : List Signal),
    (S.Sublist T → validSet m T = true → validSet m S = true) ∧ (S.Perm T → validSet m S = validSet m T)

/-- Every stored step, for every value of its placeholders, passes the validator in an idle memory and is already in catalogue
order (R258 (a), (b)); `ib-ir` is in the step at address 2 alone (R258 (d)). -/
def Obligations.StoredStepsAreValid : Prop :=
  ∀ (upc : Fin 106) (f : Placeholder → Reg),
    let S := (storedStep upc).map (Token.resolve fun p => some (f p))
    (∀ g ∈ S, g ≠ none) ∧ validSet .idle (S.filterMap id) = true
    ∧ (S.filterMap id).Pairwise (fun g h => g.idx < h.idx)
    ∧ ((storedStep upc).any Token.isIbIr = true ↔ upc = 2)

/-- R240: the accepted set becomes the list of its tokens in ascending index, whatever order the host named them in. -/
def Obligations.OrderIsCanonical : Prop :=
  ∀ S T : List Signal,
    (orderSignals S).Perm S ∧ (orderSignals S).Pairwise (fun g h => g.idx ≤ h.idx)
    ∧ (S.Perm T → orderSignals S = orderSignals T)

/-! ### Devices -/

/-- R443: the Keyboard's status word. -/
def Obligations.KeyboardStatusRead : Prop :=
  ∀ (d : Device) (queue : List Word) (ready : Bool), d.unit = .keyboard queue ready →
    (d.read 1).2 = d
    ∧ ∀ n : Nat, (d.read 1).1.getLsbD n = (decide (n = 0) && ready || decide (n = 3) && d.intEnabled)

/-- What a write to a device's registers does, seen through its later reads: the Keyboard's control bits (R444, R445), the Lights, whose
read-back is the switches (R448), the Screen's cells, power and clear (R452 to R454). A cell written while the Screen is off is
stored, and shows after power-on. -/
def Obligations.DeviceRegisterWrites : Prop :=
  ∀ (d : Device) (v : Word),
    (∀ (queue : List Word) (ready : Bool), d.unit = .keyboard queue ready →
      d.write 0 v = d ∧ (d.write 1 v).pending = d.pending ∧ (d.write 1 v).intEnabled = v.getLsbD 3
      ∧ ∃ q : List Word, (d.write 1 v).unit = .keyboard q (!q.isEmpty)
        ∧ q.length = (if v.getLsbD 2 then 0 else queue.length - (v.getLsbD 0).toNat - (v.getLsbD 1).toNat)
        ∧ ∀ n : Nat, n < q.length → q[n]? = queue[n + (v.getLsbD 0).toNat]?)
    ∧ (∀ switches lights : Word, d.unit = .lights switches lights →
      d.read 0 = (switches, d) ∧ (d.write 0 v).unit = .lights switches v ∧ (d.write 0 v).peek 0 = switches)
    ∧ ∀ (cells : List Word) (power : Bool), d.unit = .screen cells power →
      (∀ b : Nat, (d.peek cells.length).getLsbD b = (decide (b = 1) && power))
      ∧ (∀ b : Nat, ((d.write cells.length v).peek cells.length).getLsbD b = (decide (b = 1) && v.getLsbD 1))
      ∧ ∀ n : Nat, n < cells.length →
        (d.write cells.length v).peek n = (if v.getLsbD 1 && !v.getLsbD 0 then cells.getD n 0 else 0)
        ∧ ∀ off : Nat, off < cells.length →
          (d.write off v).peek n = (if power then (if n = off then v else cells.getD n 0) else 0)
          ∧ ((d.write off v).write cells.length 2).peek n = (if n = off then v else cells.getD n 0)

/-- A load from the Keyboard's data address takes the oldest code and clears `ready` with the last one; it touches neither `pending`
nor `intf` (R80, R323, R442). -/
def Obligations.KeyboardDataLoad : Prop :=
  ∀ (rd ri : Reg) (s : State) (k : Nat) (d : Device) (c : Word) (rest : List Word) (ready : Bool), Quiet s → s.runsToFin →
    s.inModule (s.reg ri).toNat = false → s.devices[k]? = some d → (s.reg ri).toNat = d.base → 0 < d.size →
    (∀ j e, j < k → s.devices[j]? = some e → e.covers d.base = false) →
    d.unit = .keyboard (c :: rest) ready →
    ∃ t, exec (.movLoad rd ri) s = .next t ∧ t.reg rd = c ∧ t.intf = s.intf ∧ t.cells = s.cells
      ∧ t.devices = s.devices.set k { d with unit := .keyboard rest (if rest = [] then false else ready) }

/-- A key appends to the queue and raises (R441), which counts only where the device's interrupts are enabled (R432); a full queue
refuses it with buffer-full, and nothing changes (R441). That the host is told RangeError is R409 in the model's reading, DEDUCED
(log 21); that the event is accepted also while the clock runs is the model's reading, DEDUCED (log 13). -/
def Obligations.KeyEventRequestsInterrupt : Prop :=
  ∀ (s : State) (name : String) (code k : Nat) (d : Device) (queue : List Word) (ready : Bool),
    s.devices[k]? = some d → d.name = name → (∀ j e, j < k → s.devices[j]? = some e → e.name ≠ name) →
    d.unit = .keyboard queue ready →
    (s.cfg.kbdCapacity ≤ queue.length →
      keyEvent name code s = ⟨s, some .bufferFull⟩ ∧ command (.key name code) s = ⟨s, some .rangeError⟩)
    ∧ (queue.length < s.cfg.kbdCapacity →
        command (.key name code) s =
          ⟨{ s with
              devices := s.devices.set k { d with
                unit := .keyboard (queue ++ [BitVec.ofNat 16 (code % 2 ^ 16)]) true
                pending := d.pending || d.intEnabled }
              intf := s.intf || d.intEnabled }, none⟩)

/-! ### Reset and invariants -/

/-- The table of R49, for the `reset` command, accepted also while the clock runs (R470 to R477; what the record does not name is
kept), and for the machine at creation (R478). -/
def Obligations.ResetValues : Prop :=
  ∀ s : State,
    command .reset s =
      ⟨{ s with
          regs := Vector.replicate 8 0
          pc := s.cfg.bootPc
          ir := 0
          sr := 0
          tmpe := 0
          tmps := 0
          ib := 0
          mar := 0
          mdr := 0
          alu := ⟨0, 0, false, 0, false, false, false, false⟩
          upc := 0
          stepCount := 0
          running := false
          intf := false
          cur := none
          manualSet := []
          memMode := .idle
          memCnt := 0 }, none⟩
    ∧ command .reset State.reset = ⟨State.reset, none⟩ ∧ State.reset.pc = 0x0100 ∧ State.reset.mode = .instruction
    ∧ State.reset.modules = [] ∧ State.reset.devices = []
    ∧ ∀ a : Nat, State.reset.cells.read State.reset.cfg.memFill a = State.reset.cfg.memFill

/-- The invariant holds at creation (R48, R478); the canonical form of memory in it is the model's own (log 2). -/
def Obligations.InvariantAtReset : Prop := Inv State.reset

/-- Every step from every state with the invariant keeps it, in every mode (R48); the canonical form of memory in it is the model's own
(log 2). -/
def Obligations.InvariantKeptByStep : Prop :=
  ∀ s t : State, Inv s → step s = .next t → Inv t

/-- Every host command keeps the invariant, whether it succeeds or fails; a restored snapshot must have it under the machine's own
parameters, which restore keeps (R48, R64, R66, R421; log 22). That removed cells are cleared at once is the model's choice
(log 9). -/
def Obligations.InvariantKeptByCommands : Prop :=
  ∀ (c : Command) (s : State), Inv s → (∀ z, c = .restore z → Inv { z with cfg := s.cfg }) → Inv (command c s).state
end

