-- ==== Sys2Proof/Laws/State.lean ====
section
/-! SUPPORT. What each named update of the state does to each field. -/

namespace Sys2Proof.Machine

variable (s : State)

/-! ### `setReg` -/

@[simp] theorem State.setReg_cfg (n : Reg) (v : Word) : (s.setReg n v).cfg = s.cfg := rfl
@[simp] theorem State.setReg_regs (n : Reg) (v : Word) : (s.setReg n v).regs = s.regs.set n.val v := rfl
@[simp] theorem State.setReg_pc (n : Reg) (v : Word) : (s.setReg n v).pc = s.pc := rfl
@[simp] theorem State.setReg_ir (n : Reg) (v : Word) : (s.setReg n v).ir = s.ir := rfl
@[simp] theorem State.setReg_sr (n : Reg) (v : Word) : (s.setReg n v).sr = s.sr := rfl
@[simp] theorem State.setReg_tmpe (n : Reg) (v : Word) : (s.setReg n v).tmpe = s.tmpe := rfl
@[simp] theorem State.setReg_tmps (n : Reg) (v : Word) : (s.setReg n v).tmps = s.tmps := rfl
@[simp] theorem State.setReg_ib (n : Reg) (v : Word) : (s.setReg n v).ib = s.ib := rfl
@[simp] theorem State.setReg_mar (n : Reg) (v : Word) : (s.setReg n v).mar = s.mar := rfl
@[simp] theorem State.setReg_mdr (n : Reg) (v : Word) : (s.setReg n v).mdr = s.mdr := rfl
@[simp] theorem State.setReg_alu (n : Reg) (v : Word) : (s.setReg n v).alu = s.alu := rfl
@[simp] theorem State.setReg_upc (n : Reg) (v : Word) : (s.setReg n v).upc = s.upc := rfl
@[simp] theorem State.setReg_stepCount (n : Reg) (v : Word) : (s.setReg n v).stepCount = s.stepCount := rfl
@[simp] theorem State.setReg_mode (n : Reg) (v : Word) : (s.setReg n v).mode = s.mode := rfl
@[simp] theorem State.setReg_running (n : Reg) (v : Word) : (s.setReg n v).running = s.running := rfl
@[simp] theorem State.setReg_intf (n : Reg) (v : Word) : (s.setReg n v).intf = s.intf := rfl
@[simp] theorem State.setReg_cur (n : Reg) (v : Word) : (s.setReg n v).cur = s.cur := rfl
@[simp] theorem State.setReg_manualSet (n : Reg) (v : Word) : (s.setReg n v).manualSet = s.manualSet := rfl
@[simp] theorem State.setReg_memMode (n : Reg) (v : Word) : (s.setReg n v).memMode = s.memMode := rfl
@[simp] theorem State.setReg_memCnt (n : Reg) (v : Word) : (s.setReg n v).memCnt = s.memCnt := rfl
@[simp] theorem State.setReg_cells (n : Reg) (v : Word) : (s.setReg n v).cells = s.cells := rfl
@[simp] theorem State.setReg_modules (n : Reg) (v : Word) : (s.setReg n v).modules = s.modules := rfl
@[simp] theorem State.setReg_devices (n : Reg) (v : Word) : (s.setReg n v).devices = s.devices := rfl

/-! ### `halt` -/

@[simp] theorem State.halt_cfg : s.halt.cfg = s.cfg := rfl
@[simp] theorem State.halt_regs : s.halt.regs = s.regs := rfl
@[simp] theorem State.halt_pc : s.halt.pc = s.pc := rfl
@[simp] theorem State.halt_ir : s.halt.ir = s.ir := rfl
@[simp] theorem State.halt_sr : s.halt.sr = s.sr := rfl
@[simp] theorem State.halt_tmpe : s.halt.tmpe = s.tmpe := rfl
@[simp] theorem State.halt_tmps : s.halt.tmps = s.tmps := rfl
@[simp] theorem State.halt_ib : s.halt.ib = s.ib := rfl
@[simp] theorem State.halt_mar : s.halt.mar = s.mar := rfl
@[simp] theorem State.halt_mdr : s.halt.mdr = s.mdr := rfl
@[simp] theorem State.halt_alu : s.halt.alu = s.alu := rfl
@[simp] theorem State.halt_upc : s.halt.upc = s.upc := rfl
@[simp] theorem State.halt_stepCount : s.halt.stepCount = s.stepCount := rfl
@[simp] theorem State.halt_mode : s.halt.mode = s.mode := rfl
@[simp] theorem State.halt_running : s.halt.running = false := rfl
@[simp] theorem State.halt_intf : s.halt.intf = s.intf := rfl
@[simp] theorem State.halt_cur : s.halt.cur = s.cur := rfl
@[simp] theorem State.halt_manualSet : s.halt.manualSet = s.manualSet := rfl
@[simp] theorem State.halt_memMode : s.halt.memMode = s.memMode := rfl
@[simp] theorem State.halt_memCnt : s.halt.memCnt = s.memCnt := rfl
@[simp] theorem State.halt_cells : s.halt.cells = s.cells := rfl
@[simp] theorem State.halt_modules : s.halt.modules = s.modules := rfl
@[simp] theorem State.halt_devices : s.halt.devices = s.devices := rfl

/-! ### `start` -/

@[simp] theorem State.start_cfg : s.start.cfg = s.cfg := rfl
@[simp] theorem State.start_regs : s.start.regs = s.regs := rfl
@[simp] theorem State.start_pc : s.start.pc = s.pc := rfl
@[simp] theorem State.start_ir : s.start.ir = s.ir := rfl
@[simp] theorem State.start_sr : s.start.sr = s.sr := rfl
@[simp] theorem State.start_tmpe : s.start.tmpe = s.tmpe := rfl
@[simp] theorem State.start_tmps : s.start.tmps = s.tmps := rfl
@[simp] theorem State.start_ib : s.start.ib = s.ib := rfl
@[simp] theorem State.start_mar : s.start.mar = s.mar := rfl
@[simp] theorem State.start_mdr : s.start.mdr = s.mdr := rfl
@[simp] theorem State.start_alu : s.start.alu = s.alu := rfl
@[simp] theorem State.start_upc : s.start.upc = s.upc := rfl
@[simp] theorem State.start_stepCount : s.start.stepCount = s.stepCount := rfl
@[simp] theorem State.start_mode : s.start.mode = s.mode := rfl
@[simp] theorem State.start_running : s.start.running = true := rfl
@[simp] theorem State.start_intf : s.start.intf = s.intf := rfl
@[simp] theorem State.start_cur : s.start.cur = s.cur := rfl
@[simp] theorem State.start_manualSet : s.start.manualSet = s.manualSet := rfl
@[simp] theorem State.start_memMode : s.start.memMode = s.memMode := rfl
@[simp] theorem State.start_memCnt : s.start.memCnt = s.memCnt := rfl
@[simp] theorem State.start_cells : s.start.cells = s.cells := rfl
@[simp] theorem State.start_modules : s.start.modules = s.modules := rfl
@[simp] theorem State.start_devices : s.start.devices = s.devices := rfl

/-! ### `clearCarry` -/

@[simp] theorem State.clearCarry_cfg : s.clearCarry.cfg = s.cfg := rfl
@[simp] theorem State.clearCarry_regs : s.clearCarry.regs = s.regs := rfl
@[simp] theorem State.clearCarry_pc : s.clearCarry.pc = s.pc := rfl
@[simp] theorem State.clearCarry_ir : s.clearCarry.ir = s.ir := rfl
@[simp] theorem State.clearCarry_sr : s.clearCarry.sr = s.sr := rfl
@[simp] theorem State.clearCarry_tmpe : s.clearCarry.tmpe = s.tmpe := rfl
@[simp] theorem State.clearCarry_tmps : s.clearCarry.tmps = s.tmps := rfl
@[simp] theorem State.clearCarry_ib : s.clearCarry.ib = s.ib := rfl
@[simp] theorem State.clearCarry_mar : s.clearCarry.mar = s.mar := rfl
@[simp] theorem State.clearCarry_mdr : s.clearCarry.mdr = s.mdr := rfl
@[simp] theorem State.clearCarry_alu : s.clearCarry.alu = { s.alu with carryIn := false } := rfl
@[simp] theorem State.clearCarry_upc : s.clearCarry.upc = s.upc := rfl
@[simp] theorem State.clearCarry_stepCount : s.clearCarry.stepCount = s.stepCount := rfl
@[simp] theorem State.clearCarry_mode : s.clearCarry.mode = s.mode := rfl
@[simp] theorem State.clearCarry_running : s.clearCarry.running = s.running := rfl
@[simp] theorem State.clearCarry_intf : s.clearCarry.intf = s.intf := rfl
@[simp] theorem State.clearCarry_cur : s.clearCarry.cur = s.cur := rfl
@[simp] theorem State.clearCarry_manualSet : s.clearCarry.manualSet = s.manualSet := rfl
@[simp] theorem State.clearCarry_memMode : s.clearCarry.memMode = s.memMode := rfl
@[simp] theorem State.clearCarry_memCnt : s.clearCarry.memCnt = s.memCnt := rfl
@[simp] theorem State.clearCarry_cells : s.clearCarry.cells = s.cells := rfl
@[simp] theorem State.clearCarry_modules : s.clearCarry.modules = s.modules := rfl
@[simp] theorem State.clearCarry_devices : s.clearCarry.devices = s.devices := rfl

/-! ### `advance` -/

@[simp] theorem State.advance_cfg : s.advance.cfg = s.cfg := rfl
@[simp] theorem State.advance_regs : s.advance.regs = s.regs := rfl
@[simp] theorem State.advance_pc : s.advance.pc = s.pc := rfl
@[simp] theorem State.advance_ir : s.advance.ir = s.ir := rfl
@[simp] theorem State.advance_sr : s.advance.sr = s.sr := rfl
@[simp] theorem State.advance_tmpe : s.advance.tmpe = s.tmpe := rfl
@[simp] theorem State.advance_tmps : s.advance.tmps = s.tmps := rfl
@[simp] theorem State.advance_ib : s.advance.ib = s.ib := rfl
@[simp] theorem State.advance_mar : s.advance.mar = s.mar := rfl
@[simp] theorem State.advance_mdr : s.advance.mdr = s.mdr := rfl
@[simp] theorem State.advance_alu : s.advance.alu = s.alu := rfl
@[simp] theorem State.advance_upc : s.advance.upc = s.upc + 1 := rfl
@[simp] theorem State.advance_stepCount : s.advance.stepCount = s.stepCount + 1 := rfl
@[simp] theorem State.advance_mode : s.advance.mode = s.mode := rfl
@[simp] theorem State.advance_running : s.advance.running = s.running := rfl
@[simp] theorem State.advance_intf : s.advance.intf = s.intf := rfl
@[simp] theorem State.advance_cur : s.advance.cur = s.cur := rfl
@[simp] theorem State.advance_manualSet : s.advance.manualSet = s.manualSet := rfl
@[simp] theorem State.advance_memMode : s.advance.memMode = s.memMode := rfl
@[simp] theorem State.advance_memCnt : s.advance.memCnt = s.memCnt := rfl
@[simp] theorem State.advance_cells : s.advance.cells = s.cells := rfl
@[simp] theorem State.advance_modules : s.advance.modules = s.modules := rfl
@[simp] theorem State.advance_devices : s.advance.devices = s.devices := rfl

/-! ### `endInstruction` -/

@[simp] theorem State.endInstruction_cfg : s.endInstruction.cfg = s.cfg := rfl
@[simp] theorem State.endInstruction_regs : s.endInstruction.regs = s.regs := rfl
@[simp] theorem State.endInstruction_pc : s.endInstruction.pc = s.pc := rfl
@[simp] theorem State.endInstruction_ir : s.endInstruction.ir = s.ir := rfl
@[simp] theorem State.endInstruction_sr : s.endInstruction.sr = s.sr := rfl
@[simp] theorem State.endInstruction_tmpe : s.endInstruction.tmpe = s.tmpe := rfl
@[simp] theorem State.endInstruction_tmps : s.endInstruction.tmps = s.tmps := rfl
@[simp] theorem State.endInstruction_ib : s.endInstruction.ib = s.ib := rfl
@[simp] theorem State.endInstruction_mar : s.endInstruction.mar = s.mar := rfl
@[simp] theorem State.endInstruction_mdr : s.endInstruction.mdr = s.mdr := rfl
@[simp] theorem State.endInstruction_alu : s.endInstruction.alu = s.alu := rfl
@[simp] theorem State.endInstruction_upc : s.endInstruction.upc = if s.interruptTaken then intAddress else 0 := rfl
@[simp] theorem State.endInstruction_stepCount : s.endInstruction.stepCount = 0 := rfl
@[simp] theorem State.endInstruction_mode : s.endInstruction.mode = s.mode := rfl
@[simp] theorem State.endInstruction_running : s.endInstruction.running = if s.mode = .instruction then false else s.running := rfl
@[simp] theorem State.endInstruction_intf : s.endInstruction.intf = s.intf := rfl
@[simp] theorem State.endInstruction_cur : s.endInstruction.cur = s.cur := rfl
@[simp] theorem State.endInstruction_manualSet : s.endInstruction.manualSet = s.manualSet := rfl
@[simp] theorem State.endInstruction_memMode : s.endInstruction.memMode = s.memMode := rfl
@[simp] theorem State.endInstruction_memCnt : s.endInstruction.memCnt = s.memCnt := rfl
@[simp] theorem State.endInstruction_cells : s.endInstruction.cells = s.cells := rfl
@[simp] theorem State.endInstruction_modules : s.endInstruction.modules = s.modules := rfl
@[simp] theorem State.endInstruction_devices : s.endInstruction.devices = s.devices := rfl

/-! ### `stopTest` -/

@[simp] theorem State.stopTest_cfg : s.stopTest.cfg = s.cfg := rfl
@[simp] theorem State.stopTest_regs : s.stopTest.regs = s.regs := rfl
@[simp] theorem State.stopTest_pc : s.stopTest.pc = s.pc := rfl
@[simp] theorem State.stopTest_ir : s.stopTest.ir = s.ir := rfl
@[simp] theorem State.stopTest_sr : s.stopTest.sr = s.sr := rfl
@[simp] theorem State.stopTest_tmpe : s.stopTest.tmpe = s.tmpe := rfl
@[simp] theorem State.stopTest_tmps : s.stopTest.tmps = s.tmps := rfl
@[simp] theorem State.stopTest_ib : s.stopTest.ib = s.ib := rfl
@[simp] theorem State.stopTest_mar : s.stopTest.mar = s.mar := rfl
@[simp] theorem State.stopTest_mdr : s.stopTest.mdr = s.mdr := rfl
@[simp] theorem State.stopTest_alu : s.stopTest.alu = s.alu := rfl
@[simp] theorem State.stopTest_upc : s.stopTest.upc = s.upc := rfl
@[simp] theorem State.stopTest_stepCount : s.stopTest.stepCount = s.stepCount := rfl
@[simp] theorem State.stopTest_mode : s.stopTest.mode = s.mode := rfl
@[simp] theorem State.stopTest_running : s.stopTest.running = if s.mode = .manual || s.mode = .step then false else s.running := rfl
@[simp] theorem State.stopTest_intf : s.stopTest.intf = s.intf := rfl
@[simp] theorem State.stopTest_cur : s.stopTest.cur = s.cur := rfl
@[simp] theorem State.stopTest_manualSet : s.stopTest.manualSet = s.manualSet := rfl
@[simp] theorem State.stopTest_memMode : s.stopTest.memMode = s.memMode := rfl
@[simp] theorem State.stopTest_memCnt : s.stopTest.memCnt = s.memCnt := rfl
@[simp] theorem State.stopTest_cells : s.stopTest.cells = s.cells := rfl
@[simp] theorem State.stopTest_modules : s.stopTest.modules = s.modules := rfl
@[simp] theorem State.stopTest_devices : s.stopTest.devices = s.devices := rfl

/-! ### `withMemory` -/

@[simp] theorem State.withMemory_cfg (r : Memory × List Device) : (s.withMemory r).cfg = s.cfg := rfl
@[simp] theorem State.withMemory_regs (r : Memory × List Device) : (s.withMemory r).regs = s.regs := rfl
@[simp] theorem State.withMemory_pc (r : Memory × List Device) : (s.withMemory r).pc = s.pc := rfl
@[simp] theorem State.withMemory_ir (r : Memory × List Device) : (s.withMemory r).ir = s.ir := rfl
@[simp] theorem State.withMemory_sr (r : Memory × List Device) : (s.withMemory r).sr = s.sr := rfl
@[simp] theorem State.withMemory_tmpe (r : Memory × List Device) : (s.withMemory r).tmpe = s.tmpe := rfl
@[simp] theorem State.withMemory_tmps (r : Memory × List Device) : (s.withMemory r).tmps = s.tmps := rfl
@[simp] theorem State.withMemory_ib (r : Memory × List Device) : (s.withMemory r).ib = s.ib := rfl
@[simp] theorem State.withMemory_mar (r : Memory × List Device) : (s.withMemory r).mar = s.mar := rfl
@[simp] theorem State.withMemory_mdr (r : Memory × List Device) : (s.withMemory r).mdr = s.mdr := rfl
@[simp] theorem State.withMemory_alu (r : Memory × List Device) : (s.withMemory r).alu = s.alu := rfl
@[simp] theorem State.withMemory_upc (r : Memory × List Device) : (s.withMemory r).upc = s.upc := rfl
@[simp] theorem State.withMemory_stepCount (r : Memory × List Device) : (s.withMemory r).stepCount = s.stepCount := rfl
@[simp] theorem State.withMemory_mode (r : Memory × List Device) : (s.withMemory r).mode = s.mode := rfl
@[simp] theorem State.withMemory_running (r : Memory × List Device) : (s.withMemory r).running = s.running := rfl
@[simp] theorem State.withMemory_intf (r : Memory × List Device) : (s.withMemory r).intf = s.intf := rfl
@[simp] theorem State.withMemory_cur (r : Memory × List Device) : (s.withMemory r).cur = s.cur := rfl
@[simp] theorem State.withMemory_manualSet (r : Memory × List Device) : (s.withMemory r).manualSet = s.manualSet := rfl
@[simp] theorem State.withMemory_memMode (r : Memory × List Device) : (s.withMemory r).memMode = s.memMode := rfl
@[simp] theorem State.withMemory_memCnt (r : Memory × List Device) : (s.withMemory r).memCnt = s.memCnt := rfl
@[simp] theorem State.withMemory_cells (r : Memory × List Device) : (s.withMemory r).cells = r.1 := rfl
@[simp] theorem State.withMemory_modules (r : Memory × List Device) : (s.withMemory r).modules = s.modules := rfl
@[simp] theorem State.withMemory_devices (r : Memory × List Device) : (s.withMemory r).devices = r.2 := rfl

/-! ### Registers -/

@[simp] theorem State.setReg_reg_same (n : Reg) (v : Word) : (s.setReg n v).reg n = v := by
  simp [State.reg]

theorem State.setReg_reg_ne {n m : Reg} (v : Word) (h : n ≠ m) : (s.setReg n v).reg m = s.reg m := by
  have : n.val ≠ m.val := fun e => h (Fin.ext e)
  simp [State.reg, this]

/-- Reading any register after a write of one. -/
theorem State.setReg_reg (n m : Reg) (v : Word) : (s.setReg n v).reg m = if n = m then v else s.reg m := by
  by_cases h : n = m
  · subst h; simp
  · simp [h, State.setReg_reg_ne]

/-- A state is what its registers and its other fields are: two writes of one register keep the later. -/
@[simp] theorem State.setReg_setReg (n : Reg) (v w : Word) : (s.setReg n v).setReg n w = s.setReg n w := by
  simp [State.setReg]

/-- Where the clock runs by itself, the stop test changes nothing (R294). -/
theorem State.stopTest_eq (h : s.runsToFin) : s.stopTest = s := by
  unfold State.stopTest
  rw [if_neg (by rcases h with h | h <;> simp [h])]

theorem State.runsToFin_ne_manual {s : State} (h : s.runsToFin) : s.mode ≠ .manual := by
  rcases h with h | h <;> simp [h]

end Sys2Proof.Machine
end

