-- ==== Sys2Proof/Laws/Operands.lean ====
section
/-! SUPPORT. Bytes of words, the displacement's two readings, and the bits of the status register. -/

namespace Sys2Proof.Machine

@[simp] theorem lowByte_bytes (hi lo : Byte) : lowByte (bytes hi lo) = lo := by
  simp only [lowByte, bytes]
  ext i h
  simp only [BitVec.getElem_extractLsb', Nat.zero_add]
  exact (BitVec.getLsbD_append (x := hi) (y := lo)).trans (by simp [h, BitVec.getLsbD_eq_getElem])

@[simp] theorem highByte_bytes (hi lo : Byte) : highByte (bytes hi lo) = hi := by
  simp only [highByte, bytes]
  ext i h
  simp only [BitVec.getElem_extractLsb']
  exact (BitVec.getLsbD_append (x := hi) (y := lo)).trans (by simp [h, BitVec.getLsbD_eq_getElem])

@[simp] theorem bytes_highByte_lowByte (w : Word) : bytes (highByte w) (lowByte w) = w := by
  simp only [highByte, lowByte, bytes]
  ext i h
  simp only [BitVec.getElem_append, BitVec.getElem_extractLsb']
  split
  · simp only [Nat.zero_add]; exact (BitVec.getLsbD_eq_getElem h)
  · rw [BitVec.getLsbD_eq_getElem (by omega)]; congr 1; omega

/-- A zero-extended byte, as a word and as a number. -/
theorem toNat_bytes_zero (k : Byte) : (bytes 0 k).toNat = k.toNat := by
  exact (BitVec.toNat_append (0 : Byte) k).trans (by simp)

/-- The byte of a displacement, sign-extended, is the displacement (R116, R360). -/
theorem signExtendByte_dispBits {d : Int} (h : displacementFits d) :
    signExtendByte (dispBits d) = BitVec.ofInt 16 d := by
  apply BitVec.eq_of_toInt_eq
  obtain ⟨h1, h2⟩ := h
  simp only [signExtendByte, dispBits]
  rw [BitVec.toInt_signExtend_of_le (by decide), BitVec.toInt_ofInt, BitVec.toInt_ofInt]
  rw [Int.bmod_eq_of_le (by omega) (by omega), Int.bmod_eq_of_le (by omega) (by omega)]

/-- A displacement read back from its byte. -/
theorem toInt_dispBits {d : Int} (h : displacementFits d) : (dispBits d).toInt = d := by
  obtain ⟨h1, h2⟩ := h
  simp only [dispBits]
  rw [BitVec.toInt_ofInt, Int.bmod_eq_of_le (by omega) (by omega)]

/-- Every byte is the byte of the displacement it stands for. -/
theorem dispBits_toInt (k : Byte) : dispBits k.toInt = k := by
  simp [dispBits]

/-- Every byte stands for a displacement in range. -/
theorem displacementFits_toInt (k : Byte) : displacementFits k.toInt := by
  have h1 := k.toInt_lt
  have h2 := k.le_toInt
  exact ⟨by omega, by omega⟩

/-! ### The status register -/

@[simp] theorem srIf_packSr (i n o c z : Bool) : srIf (packSr i n o c z) = i := by
  cases i <;> cases n <;> cases o <;> cases c <;> cases z <;> rfl

@[simp] theorem srSf_packSr (i n o c z : Bool) : srSf (packSr i n o c z) = n := by
  cases i <;> cases n <;> cases o <;> cases c <;> cases z <;> rfl

@[simp] theorem srOf_packSr (i n o c z : Bool) : srOf (packSr i n o c z) = o := by
  cases i <;> cases n <;> cases o <;> cases c <;> cases z <;> rfl

@[simp] theorem srCf_packSr (i n o c z : Bool) : srCf (packSr i n o c z) = c := by
  cases i <;> cases n <;> cases o <;> cases c <;> cases z <;> rfl

@[simp] theorem srZf_packSr (i n o c z : Bool) : srZf (packSr i n o c z) = z := by
  cases i <;> cases n <;> cases o <;> cases c <;> cases z <;> rfl

/-- Every status word is what its five bits say (R27). -/
theorem packSr_eta (sr : BitVec 5) : packSr (srIf sr) (srSf sr) (srOf sr) (srCf sr) (srZf sr) = sr := by
  revert sr; decide

/-- CLI clears IF and keeps the rest (R188). -/
theorem clearIf_eq (sr : BitVec 5) : clearIf sr = packSr false (srSf sr) (srOf sr) (srCf sr) (srZf sr) := by
  revert sr; decide

/-- STI sets IF and keeps the rest (R189). -/
theorem setIf_eq (sr : BitVec 5) : setIf sr = packSr true (srSf sr) (srOf sr) (srCf sr) (srZf sr) := by
  revert sr; decide

end Sys2Proof.Machine
end

