-- ==== Sys2Proof/Laws/Alu.lean ====
section
/-! SUPPORT. The five ALU operations in closed form: the result as a word, carry and overflow as the arithmetic conditions they are
(40_alu_ops.md R141 to R148). -/

namespace Sys2Proof.Machine

theorem aluAdd_result (a b : Word) (x : Alu) : (aluAdd a b x).result = a + b + BitVec.ofNat 16 x.carryIn.toNat := by
  apply BitVec.eq_of_toNat_eq
  simp [aluAdd, aluLatch]

@[simp] theorem aluAdd_carryIn (a b : Word) (x : Alu) : (aluAdd a b x).carryIn = x.carryIn := rfl
@[simp] theorem aluSub_carryIn (rule : SubCarryRule) (a b : Word) (x : Alu) : (aluSub rule a b x).carryIn = x.carryIn := rfl

/-- The overflow test of `add` is signed overflow (R141). -/
theorem addOverflow_eq (a b : Word) : addOverflow a b (a + b) = a.saddOverflow b := by
  rw [BitVec.saddOverflow_eq]
  unfold addOverflow positive
  cases a.msb <;> cases b.msb <;> cases (a + b).msb <;> rfl

/-- The overflow test of `sub` is signed overflow of the difference (R142). -/
theorem subOverflow_eq (a b : Word) : subOverflow a b (a - b) = a.ssubOverflow b := by
  rw [BitVec.ssubOverflow_eq]
  unfold subOverflow positive
  cases a.msb <;> cases b.msb <;> cases (a - b).msb <;> rfl

/-- Addition without carry. -/
theorem aluAdd_eq (a b : Word) (x : Alu) (h : x.carryIn = false) :
    aluAdd a b x = aluOf a b (a + b) (a.uaddOverflow b) (a.saddOverflow b) := by
  have hr : BitVec.ofNat 16 (a.toNat + b.toNat) = a + b := by
    apply BitVec.eq_of_toNat_eq; simp
  simp only [aluAdd, aluLatch, aluOf, h, Bool.toNat_false, Nat.add_zero, hr, addOverflow_eq, Alu.mk.injEq, true_and, and_true]
  simp only [BitVec.uaddOverflow]
  congr 1

/-- Adding 0 with carry: the increment (R25, R348). -/
theorem aluAdd_inc (a : Word) (x : Alu) (h : x.carryIn = true) :
    aluAdd a 0 x = { aluOf a 0 (a + 1) (a == 0xFFFF) (a == 0x7FFF) with carryIn := true } := by
  have hr : BitVec.ofNat 16 (a.toNat + (0 : Word).toNat + true.toNat) = a + 1 := by
    apply BitVec.eq_of_toNat_eq; simp
  have ho : addOverflow a 0 (a + 1) = (a == 0x7FFF) := by
    rw [Bool.eq_iff_iff]
    simp only [addOverflow, positive, BitVec.msb_eq_decide]
    simp
    bv_omega
  have hc : decide (a.toNat + (0 : Word).toNat + true.toNat > 0xFFFF) = (a == 0xFFFF) := by
    rw [Bool.eq_iff_iff]; simp; bv_omega
  simp only [aluAdd, aluLatch, aluOf, h, hr, ho, hc]

/-- Adding 0xFFFF without carry: the decrement (R170, R349). -/
theorem aluAdd_dec (a : Word) (x : Alu) (h : x.carryIn = false) :
    aluAdd a 0xFFFF x = aluOf a 0xFFFF (a - 1) (a != 0) (a == 0x8000) := by
  have hr : BitVec.ofNat 16 (a.toNat + (0xFFFF : Word).toNat + false.toNat) = a - 1 := by
    apply BitVec.eq_of_toNat_eq; simp; omega
  have ho : addOverflow a 0xFFFF (a - 1) = (a == 0x8000) := by
    rw [Bool.eq_iff_iff]
    simp only [addOverflow, positive, BitVec.msb_eq_decide]
    simp
    bv_omega
  have hc : decide (a.toNat + (0xFFFF : Word).toNat + false.toNat > 0xFFFF) = (a != 0) := by
    rw [Bool.eq_iff_iff]; simp; bv_omega
  simp only [aluAdd, aluLatch, aluOf, h, hr, ho, hc]

/-- Subtraction: the result and the overflow do not depend on the carry rule (R142, R147). -/
theorem aluSub_eq (rule : SubCarryRule) (a b : Word) (x : Alu) (h : x.carryIn = false) :
    aluSub rule a b x = aluOf a b (a - b) (subCarry rule a b) (a.ssubOverflow b) := by
  have hn : b ^^^ (0xFFFF : Word) = ~~~b := by
    rw [show (0xFFFF : Word) = BitVec.allOnes 16 from rfl, BitVec.xor_allOnes]
  have hr : BitVec.ofNat 16 (a.toNat + (b ^^^ 0xFFFF).toNat + 1) = a - b := by
    have hb := b.isLt
    have ha := a.isLt
    apply BitVec.eq_of_toNat_eq
    simp only [hn, BitVec.toNat_not, BitVec.toNat_ofNat, BitVec.toNat_sub]
    congr 1
    omega
  simp only [aluSub, aluLatch, aluOf, h, hr, subOverflow_eq]

/-- A logic operation: carry and overflow are the old ones (R143 to R145). -/
theorem aluLatch_eq (a b r : Word) (x : Alu) (h : x.carryIn = false) : aluLatch a b r x = aluOf a b r x.cf x.of := by
  simp only [aluLatch, aluOf, h]

/-- The complement is the exclusive or with ones (R145, R347). -/
theorem xor_ones (a : Word) : a ^^^ 0xFFFF = ~~~a := by
  rw [show (0xFFFF : Word) = BitVec.allOnes 16 from rfl, BitVec.xor_allOnes]

end Sys2Proof.Machine
end

