-- ==== Sys2Proof/Laws/Commands.lean ====
section
/-! SUPPORT. What a host command can answer: the reply under its reported error, a command turned away while the clock runs, and the
round trip of a snapshot (70_reset_and_hazards.md R485, R486). -/

namespace Sys2Proof.Machine

@[simp] theorem Reply.report_state (r : Reply) : r.report.state = r.state := rfl

@[simp] theorem Reply.report_ok (s : State) : (ok s).report = ok s := rfl

@[simp] theorem Reply.report_failWith (e : HostError) (s : State) : (failWith e s).report = failWith e.reported s := rfl

/-- A command of a stopped machine has its effect. -/
theorem command_of_stopped {c : Command} {s : State} (h : s.running = false) : command c s = (c.effect s).report := by
  simp [command, h]

/-- `stop`, `reset` and the device events have their effect whether the clock runs or not. -/
theorem command_of_accepted {c : Command} {s : State} (h : c.whileRunning = true) : command c s = (c.effect s).report := by
  simp [command, h]

/-- Every other command changes nothing while the clock runs and is a ModeError (R408, R485). -/
theorem command_of_running {c : Command} {s : State} (hs : s.running = true) (hc : c.whileRunning = false) :
    command c s = failWith .modeError s := by
  simp [command, hs, hc, HostError.reported]

/-- The state a command leaves is the old one or that of its effect. -/
theorem command_state_cases (c : Command) (s : State) :
    (command c s).state = s ∨ (command c s).state = (c.effect s).state := by
  unfold command
  split
  · exact .inl rfl
  · exact .inr rfl

/-- The round-trip law: what `backup` answers, restored on a stopped machine with the same parameters, gives the state of the backup
(R486). -/
theorem restore_backup {s t : State} {z : Snapshot} (hz : backup s = .ok z) (hc : t.cfg = s.cfg) (ht : t.running = false) :
    command (.restore z) t = ok s := by
  unfold backup at hz
  split at hz
  · cases hz
  · rename_i hs
    cases hz
    rw [command_of_stopped ht]
    have hs : s.running = false := by simpa using hs
    show ok { s with cfg := t.cfg, running := false } = ok s
    rw [hc, ← hs]

/-- Storing a program's words changes no parameter. -/
theorem storeWords_cfg (a : Word) (ws : List Word) (s : State) : (storeWords a ws s).state.cfg = s.cfg := by
  induction ws generalizing a s with
  | nil => rfl
  | cons w ws ih =>
    unfold storeWords
    split
    · exact ih _ _
    · rfl

@[simp] theorem raiseAt_cfg (k : Nat) (s : State) : (raiseAt k s).cfg = s.cfg := by
  unfold raiseAt
  split
  · split <;> rfl
  · rfl

/-- No command's effect changes the parameters (log 3). -/
theorem effect_cfg (c : Command) (s : State) : (c.effect s).state.cfg = s.cfg := by
  cases c <;> simp only [Command.effect]
  case loadProgram ls =>
    unfold loadProgram
    split
    · exact storeWords_cfg _ _ _
    · rfl
    · rfl
  case loadMemory o ls =>
    unfold loadMemory
    split
    · split
      · exact storeWords_cfg _ _ _
      · rfl
    · rfl
  case writeRegister r v =>
    unfold writeRegister
    split
    · split
      · cases r <;> rfl
      · rfl
    · rfl
  case key name code =>
    unfold keyEvent
    dsimp only
    split
    · split
      · split
        · rfl
        · exact raiseAt_cfg _ _
      all_goals rfl
    · rfl
  case lightsInterrupt name =>
    unfold lightsInterrupt
    dsimp only
    split
    · split
      · exact raiseAt_cfg _ _
      all_goals rfl
    · rfl
  case step => unfold startStep; split <;> rfl
  case runInstruction => unfold startRun; split <;> rfl
  case run => unfold startRun; split <;> rfl
  case setManualMode on => unfold setManualMode; (repeat' split) <;> rfl
  case loadManualSignals ts => unfold loadManualSignals; (repeat' split) <;> rfl
  case addModule a k => unfold addModule; (repeat' split) <;> rfl
  case removeModule a => unfold removeModule; split <;> rfl
  case addDevice => unfold addDevice; dsimp only; (repeat' split) <;> rfl
  case removeDevice name => unfold removeDevice; split <;> rfl
  case setPos a v => unfold writeCell; (repeat' split) <;> rfl
  case setSwitches name v => unfold setSwitches; dsimp only; (repeat' split) <;> rfl
  case setDeviceIntEnabled name on => unfold setDeviceIntEnabled; dsimp only; (repeat' split) <;> rfl
  all_goals rfl

/-- No command changes the parameters (log 3). -/
theorem command_cfg (c : Command) (s : State) : (command c s).state.cfg = s.cfg := by
  obtain h | h := command_state_cases c s <;> rw [h]
  exact effect_cfg c s

end Sys2Proof.Machine
end

