-- ==== Sys2Proof/Laws/Memory.lean ====
section
/-! SUPPORT. The cells: reading after a write, and the canonical form that every memory operation keeps (log 2). -/

namespace Sys2Proof.Machine

variable {fill : Word} {m : Memory} {a b lo : Nat} {v : Word}

@[simp] theorem Memory.wfFrom_nil : Memory.wfFrom fill lo [] = true := rfl

@[simp] theorem Memory.wfFrom_cons {w : Word} :
    Memory.wfFrom fill lo ((b, w) :: m) = true ↔ lo ≤ b ∧ w ≠ fill ∧ Memory.wfFrom fill (b + 1) m = true := by
  simp [Memory.wfFrom, and_assoc]

theorem Memory.wfFrom_mono {lo' : Nat} (h : Memory.wfFrom fill lo m) (hl : lo' ≤ lo) : Memory.wfFrom fill lo' m := by
  cases m with
  | nil => rfl
  | cons e m => obtain ⟨b, w⟩ := e; simp at h ⊢; exact ⟨by omega, h.2⟩

/-- An address below every entry reads as the fill value. -/
theorem Memory.read_below (h : Memory.wfFrom fill lo m) (ha : a < lo) : m.read fill a = fill := by
  induction m generalizing lo with
  | nil => rfl
  | cons e m ih =>
    obtain ⟨b, w⟩ := e
    simp at h
    simp [Memory.read, show a ≠ b by omega, ih h.2.2 (by omega)]

/-- A write keeps the canonical form. -/
theorem Memory.wfFrom_write (h : Memory.wfFrom fill lo m) (ha : lo ≤ a) : Memory.wfFrom fill lo (m.write fill a v) := by
  induction m generalizing lo with
  | nil => by_cases hv : v = fill <;> simp [Memory.write, hv, ha]
  | cons e m ih =>
    obtain ⟨b, w⟩ := e
    simp at h
    unfold Memory.write
    split
    · split <;> simp_all
    · split
      · subst_vars
        split
        · exact Memory.wfFrom_mono h.2.2 (by omega)
        · simp_all
      · simp only [Memory.wfFrom_cons]
        exact ⟨h.1, h.2.1, ih h.2.2 (by omega)⟩

/-- Reading any address after a write. -/
theorem Memory.read_write_from (h : Memory.wfFrom fill lo m) (ha : lo ≤ a) :
    (m.write fill a v).read fill b = if b = a then v else m.read fill b := by
  induction m generalizing lo with
  | nil =>
    by_cases hv : v = fill
    · simp [Memory.write, Memory.read, hv]
    · simp [Memory.write, Memory.read, hv]
  | cons e m ih =>
    obtain ⟨c, w⟩ := e
    simp at h
    have hr : Memory.read fill m c = fill := Memory.read_below h.2.2 (by omega)
    unfold Memory.write
    split
    · have hm : Memory.read fill m a = fill := Memory.read_below h.2.2 (by omega)
      split
      · subst_vars
        by_cases hb : b = a
        · subst hb; simp [Memory.read, show b ≠ c by omega, hm]
        · simp [hb]
      · simp [Memory.read]
    · split
      · subst_vars
        split
        · by_cases hb : b = c <;> simp_all [Memory.read]
        · by_cases hb : b = c <;> simp_all [Memory.read]
      · simp only [Memory.read]
        rw [ih h.2.2 (by omega)]
        by_cases hb : b = c
        · subst hb; simp; intro; omega
        · simp [hb]

theorem Memory.wf_write (h : m.wf fill) : (m.write fill a v).wf fill := Memory.wfFrom_write h (Nat.zero_le a)

/-- The word written is read back. -/
theorem Memory.read_write_same (h : m.wf fill) : (m.write fill a v).read fill a = v := by
  rw [Memory.read_write_from h (Nat.zero_le a)]; simp

/-- Every other address reads as before. -/
theorem Memory.read_write_ne (h : m.wf fill) (hb : b ≠ a) : (m.write fill a v).read fill b = m.read fill b := by
  rw [Memory.read_write_from h (Nat.zero_le a)]; simp [hb]

/-- A filter keeps the canonical form. -/
theorem Memory.wfFrom_filter (p : Nat × Word → Bool) (h : Memory.wfFrom fill lo m) :
    Memory.wfFrom fill lo (m.filter p) := by
  induction m generalizing lo with
  | nil => rfl
  | cons e m ih =>
    obtain ⟨b, w⟩ := e
    simp at h
    rw [List.filter_cons]
    split
    · simp only [Memory.wfFrom_cons]; exact ⟨h.1, h.2.1, ih h.2.2⟩
    · exact Memory.wfFrom_mono (ih h.2.2) (by omega)

theorem Memory.wf_clear {len : Nat} (h : m.wf fill) : (m.clear lo len).wf fill := Memory.wfFrom_filter _ h

/-- The memory at reset has the canonical form. -/
theorem Memory.wf_reset : State.reset.cells.wf State.reset.cfg.memFill := rfl

/-- The entries after a write: the written one and old ones. -/
theorem Memory.mem_write {e : Nat × Word} (h : e ∈ m.write fill a v) : e = (a, v) ∨ e ∈ m := by
  induction m with
  | nil => unfold Memory.write at h; split at h <;> simp_all
  | cons x m ih =>
    obtain ⟨c, w⟩ := x
    unfold Memory.write at h
    split at h
    · split at h <;> simp_all
    · split at h
      · split at h
        · exact .inr (List.mem_cons_of_mem _ h)
        · simp at h; rcases h with h | h <;> simp_all
      · simp at h
        rcases h with h | h
        · simp [h]
        · rcases ih h with h | h <;> simp [h]

end Sys2Proof.Machine
end

