-- ==== Sys2Proof/Laws/Devices.lean ====
section
/-! SUPPORT. What a read or a write of a device can do, which device an address reaches, and when an I/O tick does nothing. -/

namespace Sys2Proof.Machine

variable (d : Device) (off : Nat) (v : Word)

/-- A read keeps everything but the unit (R423). -/
theorem Device.read_spec : ∃ u, (d.read off).2 = { d with unit := u } := by
  unfold Device.read
  split
  · split
    · split
      · exact ⟨d.unit, rfl⟩
      · exact ⟨_, rfl⟩
    · exact ⟨d.unit, rfl⟩
  · exact ⟨d.unit, rfl⟩
  · split <;> exact ⟨d.unit, rfl⟩

/-- A write keeps everything but the unit and the enable bit (R423). -/
theorem Device.write_spec : ∃ u e, d.write off v = { d with unit := u, intEnabled := e } := by
  unfold Device.write
  split
  · split
    · exact ⟨d.unit, d.intEnabled, rfl⟩
    · exact ⟨_, _, rfl⟩
  · exact ⟨_, d.intEnabled, rfl⟩
  · split <;> exact ⟨_, d.intEnabled, rfl⟩

@[simp] theorem Device.read_intRead : (d.read off).2.intRead = d.intRead := by
  obtain ⟨u, h⟩ := d.read_spec off; simp [h]

@[simp] theorem Device.write_intRead : (d.write off v).intRead = d.intRead := by
  obtain ⟨u, e, h⟩ := d.write_spec off v; simp [h]

/-- A read through the registry reads one device, the first that covers the address (R423). -/
theorem readDevices_spec {a : Nat} {ds ds' : List Device} {w : Word} (h : readDevices a ds = some (w, ds')) :
    ∃ k d, ds[k]? = some d ∧ d.covers a = true ∧ (w, ds') = ((d.read (a - d.base)).1, ds.set k (d.read (a - d.base)).2) := by
  induction ds generalizing ds' with
  | nil => simp [readDevices] at h
  | cons e ds ih =>
    unfold readDevices at h
    split at h
    · rename_i hc
      simp at h
      exact ⟨0, e, rfl, hc, by simp [h.1, h.2]⟩
    · simp only [Option.map_eq_some_iff] at h
      obtain ⟨⟨w', t⟩, ht, he⟩ := h
      simp only [Prod.mk.injEq] at he
      obtain ⟨rfl, rfl⟩ := he
      obtain ⟨k, d, hk, hc, hw⟩ := ih ht
      simp only [Prod.mk.injEq] at hw
      exact ⟨k + 1, d, by simpa using hk, hc, by simp [hw.1, hw.2]⟩

/-- A write through the registry writes one device, the first that covers the address (R423). -/
theorem writeDevices_spec {a : Nat} {v : Word} {ds ds' : List Device} (h : writeDevices a v ds = some ds') :
    ∃ k d, ds[k]? = some d ∧ d.covers a = true ∧ ds' = ds.set k (d.write (a - d.base) v) := by
  induction ds generalizing ds' with
  | nil => simp [writeDevices] at h
  | cons e ds ih =>
    unfold writeDevices at h
    split at h
    · rename_i hc
      simp at h
      exact ⟨0, e, rfl, hc, by simp [← h]⟩
    · simp only [Option.map_eq_some_iff] at h
      obtain ⟨t, ht, he⟩ := h
      obtain ⟨k, d, hk, hc, hw⟩ := ih ht
      exact ⟨k + 1, d, by simpa using hk, hc, by simp [← he, hw]⟩

/-- What every device of a list has, every device has after one of them is replaced by one that has it. -/
theorem forall_mem_set {P : Device → Prop} {ds : List Device} {k : Nat} {d : Device} (h : ∀ e ∈ ds, P e) (hd : P d) :
    ∀ e ∈ ds.set k d, P e := by
  intro e he
  rcases List.mem_or_eq_of_mem_set he with he | he
  · exact h e he
  · exact he ▸ hd

/-- A read arms no device. -/
theorem State.getPos_quiet {s : State} {a : Nat} {w : Word} {ds : List Device} (h : s.getPos a = some (w, ds))
    (hd : ∀ d ∈ s.devices, d.intRead = .idle) : ∀ d ∈ ds, d.intRead = .idle := by
  unfold State.getPos at h
  split at h
  · simp at h; rw [← h.2]; exact hd
  · obtain ⟨k, d, hk, _, hr⟩ := readDevices_spec h
    simp at hr
    rw [hr.2]
    exact forall_mem_set hd (by simpa using hd d (List.mem_of_getElem? hk))

/-- A write arms no device. -/
theorem State.setPos_quiet {s : State} {a : Nat} {v : Word} {r : Memory × List Device} (h : s.setPos a v = some r)
    (hd : ∀ d ∈ s.devices, d.intRead = .idle) : ∀ d ∈ r.2, d.intRead = .idle := by
  unfold State.setPos at h
  split at h
  · simp at h; rw [← h]; exact hd
  · simp only [Option.map_eq_some_iff] at h
    obtain ⟨ds, hw, he⟩ := h
    obtain ⟨k, d, hk, _, hs⟩ := writeDevices_spec hw
    rw [← he, hs]
    exact forall_mem_set hd (by simpa using hd d (List.mem_of_getElem? hk))

/-- The tick of a device that is not armed changes nothing (R435). -/
theorem deviceTick_quiet {s : State} (h : ∀ d ∈ s.devices, d.intRead = .idle) (k : Nat) : deviceTick s k = s := by
  unfold deviceTick
  split
  · rfl
  · rename_i d hd
    simp [h d (List.mem_of_getElem? hd)]

/-- An I/O tick with no device armed changes nothing (R427, R435). -/
theorem ioTick_quiet {s : State} (h : ∀ d ∈ s.devices, d.intRead = .idle) : ioTick s = s := by
  unfold ioTick
  generalize requestingFrom 0 s.devices = l
  induction l with
  | nil => rfl
  | cons k l ih => simp [deviceTick_quiet h, ih]

/-- What a device's tick can do: only the device at place `k`, MDR and `intf` can change (R435). -/
theorem deviceTick_spec (s : State) (k : Nat) :
    deviceTick s k = s ∨
    ∃ d, s.devices[k]? = some d ∧
      ((d.intRead = .armed0 ∧ deviceTick s k = { s with devices := s.devices.set k { d with intRead := .armed1 } }) ∨
       (d.intRead = .armed1 ∧
          deviceTick s k =
            { s with
              devices := s.devices.set k { d with intRead := .idle, pending := false }
              mdr := bytes 0 d.vector
              intf := if (intDevices (s.devices.set k { d with intRead := .idle, pending := false })).isEmpty then false
                else s.intf })) := by
  unfold deviceTick
  split
  · exact .inl rfl
  · rename_i d hd
    split
    · exact .inl rfl
    · rename_i hr; exact .inr ⟨d, hd, .inl ⟨hr, rfl⟩⟩
    · rename_i hr; exact .inr ⟨d, hd, .inr ⟨hr, rfl⟩⟩

/-- A read of the registry fails exactly where no device covers the address (R67). -/
theorem readDevices_eq_none_iff {a : Nat} {ds : List Device} : readDevices a ds = none ↔ ∀ d ∈ ds, d.covers a = false := by
  induction ds with
  | nil => simp [readDevices]
  | cons d ds ih => cases h : d.covers a <;> simp [readDevices, h, ih]

/-- A write to the registry fails exactly where no device covers the address (R68). -/
theorem writeDevices_eq_none_iff {a : Nat} {v : Word} {ds : List Device} :
    writeDevices a v ds = none ↔ ∀ d ∈ ds, d.covers a = false := by
  induction ds with
  | nil => simp [writeDevices]
  | cons d ds ih => cases h : d.covers a <;> simp [writeDevices, h, ih]

/-- `getPos` fails exactly where no module and no device covers the address (R67). -/
theorem State.getPos_eq_none_iff {s : State} {a : Nat} :
    s.getPos a = none ↔ s.inModule a = false ∧ ∀ d ∈ s.devices, d.covers a = false := by
  cases h : s.inModule a <;> simp [State.getPos, h, readDevices_eq_none_iff]

/-- `setPos` fails exactly where `getPos` does, whatever the word (R68). -/
theorem State.setPos_eq_none_iff {s : State} {a : Nat} {v : Word} : s.setPos a v = none ↔ s.getPos a = none := by
  rw [State.getPos_eq_none_iff]
  cases h : s.inModule a <;> simp [State.setPos, h, writeDevices_eq_none_iff]

end Sys2Proof.Machine
end

