-- ==== Sys2Proof/Laws/PerInstr.lean ====
section
/-! SUPPORT. The laws stated instruction by instruction. -/

namespace Sys2Proof.Laws

/-- A row of spec/opcode_table.json: the fixed bits, their value, and the bits that decoding ignores. -/
structure TableRow where
  mask : Word
  value : Word
  ignored : Word

/-- The opcode table's row of each instruction. -/
def tableRow : Instr → TableRow
  | .nop => ⟨0xF800, 0x0000, 0x07FF⟩
  | .mov _ _ => ⟨0xF800, 0x0800, 0x001F⟩
  | .movLoad _ _ => ⟨0xF800, 0x1000, 0x001F⟩
  | .movStore _ _ => ⟨0xF800, 0x1800, 0x001F⟩
  | .movl _ _ => ⟨0xF800, 0x2000, 0x0000⟩
  | .movh _ _ => ⟨0xF800, 0x2800, 0x0000⟩
  | .push _ => ⟨0xF800, 0x3000, 0x00FF⟩
  | .pop _ => ⟨0xF800, 0x3800, 0x00FF⟩
  | .add _ _ _ => ⟨0xF800, 0x4000, 0x0003⟩
  | .sub _ _ _ => ⟨0xF800, 0x4800, 0x0003⟩
  | .or _ _ _ => ⟨0xF800, 0x5000, 0x0003⟩
  | .and _ _ _ => ⟨0xF800, 0x5800, 0x0003⟩
  | .xor _ _ _ => ⟨0xF800, 0x6000, 0x0003⟩
  | .cmp _ _ => ⟨0xF800, 0x6800, 0x001F⟩
  | .not _ => ⟨0xF800, 0x8000, 0x00FF⟩
  | .inc _ => ⟨0xF800, 0x8800, 0x00FF⟩
  | .dec _ => ⟨0xF800, 0x9000, 0x00FF⟩
  | .neg _ => ⟨0xF800, 0x9800, 0x00FF⟩
  | .cli => ⟨0xF800, 0xA000, 0x07FF⟩
  | .sti => ⟨0xF800, 0xA800, 0x07FF⟩
  | .int _ => ⟨0xF800, 0xB000, 0x0700⟩
  | .iret => ⟨0xF800, 0xB800, 0x07FF⟩
  | .jr _ => ⟨0xF800, 0xC000, 0x0700⟩
  | .jmp _ => ⟨0xF800, 0xC800, 0x00FF⟩
  | .callr _ => ⟨0xF800, 0xD000, 0x0700⟩
  | .call _ => ⟨0xF800, 0xD800, 0x00FF⟩
  | .ret => ⟨0xF800, 0xE000, 0x07FF⟩
  | .brc _ => ⟨0xFF00, 0xF000, 0x0000⟩
  | .brnc _ => ⟨0xFF00, 0xF100, 0x0000⟩
  | .bro _ => ⟨0xFF00, 0xF200, 0x0000⟩
  | .brno _ => ⟨0xFF00, 0xF300, 0x0000⟩
  | .brz _ => ⟨0xFF00, 0xF400, 0x0000⟩
  | .brnz _ => ⟨0xFF00, 0xF500, 0x0000⟩
  | .brs _ => ⟨0xFF00, 0xF600, 0x0000⟩
  | .brns _ => ⟨0xFF00, 0xF700, 0x0000⟩

/-- The instruction's encoding has its row's fixed bits and zeros in the ignored bits; the bits of its format are the others. -/
def OpcodeTable.Statement (i : Instr) : Prop :=
  encode i &&& (tableRow i).mask = (tableRow i).value
  ∧ encode i &&& (tableRow i).ignored = 0
  ∧ i.usedBits = ~~~(tableRow i).ignored

/-- Under the opcode mask an encoding is its opcode. -/
theorem opcode_mask {i : Instr} {v : Word} (h : (i.opcode ++ (0 : BitVec 11) : Word) = v) : encode i &&& 0xF800 = v := by
  rw [← h, encode, show (0xF800 : Word) = (0b11111 : BitVec 5) ++ (0 : BitVec 11) from rfl, BitVec.and_append]
  congr 1
  · generalize i.opcode = op; revert op; decide
  · exact BitVec.and_zero

/-- Under the mask of format CD a conditional branch is its opcode and its condition. -/
theorem condition_mask {i : Instr} {c : BitVec 3} {k : Byte} {v : Word} (hi : i.operandBits = c ++ k)
    (h : (i.opcode ++ (c ++ (0 : Byte) : BitVec 11) : Word) = v) : encode i &&& 0xFF00 = v := by
  rw [← h, encode, hi, show (0xFF00 : Word) = (0b11111 : BitVec 5) ++ ((0b111 : BitVec 3) ++ (0 : Byte) : BitVec 11) from rfl,
    BitVec.and_append, BitVec.and_append]
  congr 1
  · generalize i.opcode = op; revert op; decide
  · congr 1
    · clear hi h; revert c; decide
    · exact BitVec.and_zero

/-- Bits 10:8 are zero where the operand is a byte alone. -/
theorem ignored_high {i : Instr} {k : Byte} (hi : i.operandBits = (0 : BitVec 3) ++ k) : encode i &&& 0x0700 = 0 := by
  rw [encode, hi, show (0x0700 : Word) = (0 : BitVec 5) ++ ((0b111 : BitVec 3) ++ (0 : Byte) : BitVec 11) from rfl,
    BitVec.and_append, BitVec.and_append]
  simp

theorem OpcodeTable.nop : OpcodeTable.Statement (.nop) :=
  ⟨rfl, rfl, rfl⟩

theorem OpcodeTable.mov (rd : Reg) (rs : Reg) : OpcodeTable.Statement (.mov rd rs) :=
  ⟨opcode_mask (show (0b1 : BitVec 5) ++ (0 : BitVec 11) = 0x0800 by decide),
    by revert rd rs; decide,
    (show (0xFFE0 : Word) = ~~~0x001F by decide)⟩

theorem OpcodeTable.movLoad (rd : Reg) (ri : Reg) : OpcodeTable.Statement (.movLoad rd ri) :=
  ⟨opcode_mask (show (0b10 : BitVec 5) ++ (0 : BitVec 11) = 0x1000 by decide),
    by revert rd ri; decide,
    (show (0xFFE0 : Word) = ~~~0x001F by decide)⟩

theorem OpcodeTable.movStore (ri : Reg) (rs : Reg) : OpcodeTable.Statement (.movStore ri rs) :=
  ⟨opcode_mask (show (0b11 : BitVec 5) ++ (0 : BitVec 11) = 0x1800 by decide),
    by revert ri rs; decide,
    (show (0xFFE0 : Word) = ~~~0x001F by decide)⟩

theorem OpcodeTable.movl (rd : Reg) (k : Byte) : OpcodeTable.Statement (.movl rd k) :=
  ⟨opcode_mask (show (0b100 : BitVec 5) ++ (0 : BitVec 11) = 0x2000 by decide),
    BitVec.and_zero,
    (show (0xFFFF : Word) = ~~~0x0000 by decide)⟩

theorem OpcodeTable.movh (rd : Reg) (k : Byte) : OpcodeTable.Statement (.movh rd k) :=
  ⟨opcode_mask (show (0b101 : BitVec 5) ++ (0 : BitVec 11) = 0x2800 by decide),
    BitVec.and_zero,
    (show (0xFFFF : Word) = ~~~0x0000 by decide)⟩

theorem OpcodeTable.push (rs : Reg) : OpcodeTable.Statement (.push rs) :=
  ⟨opcode_mask (show (0b110 : BitVec 5) ++ (0 : BitVec 11) = 0x3000 by decide),
    by revert rs; decide,
    (show (0xFF00 : Word) = ~~~0x00FF by decide)⟩

theorem OpcodeTable.pop (rd : Reg) : OpcodeTable.Statement (.pop rd) :=
  ⟨opcode_mask (show (0b111 : BitVec 5) ++ (0 : BitVec 11) = 0x3800 by decide),
    by revert rd; decide,
    (show (0xFF00 : Word) = ~~~0x00FF by decide)⟩

theorem OpcodeTable.add (rd : Reg) (rs1 : Reg) (rs2 : Reg) : OpcodeTable.Statement (.add rd rs1 rs2) :=
  ⟨opcode_mask (show (0b1000 : BitVec 5) ++ (0 : BitVec 11) = 0x4000 by decide),
    by revert rd rs1 rs2; decide,
    (show (0xFFFC : Word) = ~~~0x0003 by decide)⟩

theorem OpcodeTable.sub (rd : Reg) (rs1 : Reg) (rs2 : Reg) : OpcodeTable.Statement (.sub rd rs1 rs2) :=
  ⟨opcode_mask (show (0b1001 : BitVec 5) ++ (0 : BitVec 11) = 0x4800 by decide),
    by revert rd rs1 rs2; decide,
    (show (0xFFFC : Word) = ~~~0x0003 by decide)⟩

theorem OpcodeTable.or (rd : Reg) (rs1 : Reg) (rs2 : Reg) : OpcodeTable.Statement (.or rd rs1 rs2) :=
  ⟨opcode_mask (show (0b1010 : BitVec 5) ++ (0 : BitVec 11) = 0x5000 by decide),
    by revert rd rs1 rs2; decide,
    (show (0xFFFC : Word) = ~~~0x0003 by decide)⟩

theorem OpcodeTable.and (rd : Reg) (rs1 : Reg) (rs2 : Reg) : OpcodeTable.Statement (.and rd rs1 rs2) :=
  ⟨opcode_mask (show (0b1011 : BitVec 5) ++ (0 : BitVec 11) = 0x5800 by decide),
    by revert rd rs1 rs2; decide,
    (show (0xFFFC : Word) = ~~~0x0003 by decide)⟩

theorem OpcodeTable.xor (rd : Reg) (rs1 : Reg) (rs2 : Reg) : OpcodeTable.Statement (.xor rd rs1 rs2) :=
  ⟨opcode_mask (show (0b1100 : BitVec 5) ++ (0 : BitVec 11) = 0x6000 by decide),
    by revert rd rs1 rs2; decide,
    (show (0xFFFC : Word) = ~~~0x0003 by decide)⟩

theorem OpcodeTable.cmp (rs1 : Reg) (rs2 : Reg) : OpcodeTable.Statement (.cmp rs1 rs2) :=
  ⟨opcode_mask (show (0b1101 : BitVec 5) ++ (0 : BitVec 11) = 0x6800 by decide),
    by revert rs1 rs2; decide,
    (show (0xFFE0 : Word) = ~~~0x001F by decide)⟩

theorem OpcodeTable.not (rds : Reg) : OpcodeTable.Statement (.not rds) :=
  ⟨opcode_mask (show (0b10000 : BitVec 5) ++ (0 : BitVec 11) = 0x8000 by decide),
    by revert rds; decide,
    (show (0xFF00 : Word) = ~~~0x00FF by decide)⟩

theorem OpcodeTable.inc (rds : Reg) : OpcodeTable.Statement (.inc rds) :=
  ⟨opcode_mask (show (0b10001 : BitVec 5) ++ (0 : BitVec 11) = 0x8800 by decide),
    by revert rds; decide,
    (show (0xFF00 : Word) = ~~~0x00FF by decide)⟩

theorem OpcodeTable.dec (rds : Reg) : OpcodeTable.Statement (.dec rds) :=
  ⟨opcode_mask (show (0b10010 : BitVec 5) ++ (0 : BitVec 11) = 0x9000 by decide),
    by revert rds; decide,
    (show (0xFF00 : Word) = ~~~0x00FF by decide)⟩

theorem OpcodeTable.neg (rds : Reg) : OpcodeTable.Statement (.neg rds) :=
  ⟨opcode_mask (show (0b10011 : BitVec 5) ++ (0 : BitVec 11) = 0x9800 by decide),
    by revert rds; decide,
    (show (0xFF00 : Word) = ~~~0x00FF by decide)⟩

theorem OpcodeTable.cli : OpcodeTable.Statement (.cli) :=
  ⟨rfl, rfl, rfl⟩

theorem OpcodeTable.sti : OpcodeTable.Statement (.sti) :=
  ⟨rfl, rfl, rfl⟩

theorem OpcodeTable.int (k : Byte) : OpcodeTable.Statement (.int k) :=
  ⟨opcode_mask (show (0b10110 : BitVec 5) ++ (0 : BitVec 11) = 0xB000 by decide),
    ignored_high rfl,
    (show (0xF8FF : Word) = ~~~0x0700 by decide)⟩

theorem OpcodeTable.iret : OpcodeTable.Statement (.iret) :=
  ⟨rfl, rfl, rfl⟩

theorem OpcodeTable.jr (d : Int) : OpcodeTable.Statement (.jr d) :=
  ⟨opcode_mask (show (0b11000 : BitVec 5) ++ (0 : BitVec 11) = 0xC000 by decide),
    ignored_high rfl,
    (show (0xF8FF : Word) = ~~~0x0700 by decide)⟩

theorem OpcodeTable.jmp (rx : Reg) : OpcodeTable.Statement (.jmp rx) :=
  ⟨opcode_mask (show (0b11001 : BitVec 5) ++ (0 : BitVec 11) = 0xC800 by decide),
    by revert rx; decide,
    (show (0xFF00 : Word) = ~~~0x00FF by decide)⟩

theorem OpcodeTable.callr (d : Int) : OpcodeTable.Statement (.callr d) :=
  ⟨opcode_mask (show (0b11010 : BitVec 5) ++ (0 : BitVec 11) = 0xD000 by decide),
    ignored_high rfl,
    (show (0xF8FF : Word) = ~~~0x0700 by decide)⟩

theorem OpcodeTable.call (rx : Reg) : OpcodeTable.Statement (.call rx) :=
  ⟨opcode_mask (show (0b11011 : BitVec 5) ++ (0 : BitVec 11) = 0xD800 by decide),
    by revert rx; decide,
    (show (0xFF00 : Word) = ~~~0x00FF by decide)⟩

theorem OpcodeTable.ret : OpcodeTable.Statement (.ret) :=
  ⟨rfl, rfl, rfl⟩

theorem OpcodeTable.brc (d : Int) : OpcodeTable.Statement (.brc d) :=
  ⟨condition_mask (show _ = (0b0 : BitVec 3) ++ dispBits d from rfl)
      (show (0b11110 : BitVec 5) ++ (0b0 ++ 0 : BitVec 11) = 0xF000 by decide),
    BitVec.and_zero,
    (show (0xFFFF : Word) = ~~~0x0000 by decide)⟩

theorem OpcodeTable.brnc (d : Int) : OpcodeTable.Statement (.brnc d) :=
  ⟨condition_mask (show _ = (0b1 : BitVec 3) ++ dispBits d from rfl)
      (show (0b11110 : BitVec 5) ++ (0b1 ++ 0 : BitVec 11) = 0xF100 by decide),
    BitVec.and_zero,
    (show (0xFFFF : Word) = ~~~0x0000 by decide)⟩

theorem OpcodeTable.bro (d : Int) : OpcodeTable.Statement (.bro d) :=
  ⟨condition_mask (show _ = (0b10 : BitVec 3) ++ dispBits d from rfl)
      (show (0b11110 : BitVec 5) ++ (0b10 ++ 0 : BitVec 11) = 0xF200 by decide),
    BitVec.and_zero,
    (show (0xFFFF : Word) = ~~~0x0000 by decide)⟩

theorem OpcodeTable.brno (d : Int) : OpcodeTable.Statement (.brno d) :=
  ⟨condition_mask (show _ = (0b11 : BitVec 3) ++ dispBits d from rfl)
      (show (0b11110 : BitVec 5) ++ (0b11 ++ 0 : BitVec 11) = 0xF300 by decide),
    BitVec.and_zero,
    (show (0xFFFF : Word) = ~~~0x0000 by decide)⟩

theorem OpcodeTable.brz (d : Int) : OpcodeTable.Statement (.brz d) :=
  ⟨condition_mask (show _ = (0b100 : BitVec 3) ++ dispBits d from rfl)
      (show (0b11110 : BitVec 5) ++ (0b100 ++ 0 : BitVec 11) = 0xF400 by decide),
    BitVec.and_zero,
    (show (0xFFFF : Word) = ~~~0x0000 by decide)⟩

theorem OpcodeTable.brnz (d : Int) : OpcodeTable.Statement (.brnz d) :=
  ⟨condition_mask (show _ = (0b101 : BitVec 3) ++ dispBits d from rfl)
      (show (0b11110 : BitVec 5) ++ (0b101 ++ 0 : BitVec 11) = 0xF500 by decide),
    BitVec.and_zero,
    (show (0xFFFF : Word) = ~~~0x0000 by decide)⟩

theorem OpcodeTable.brs (d : Int) : OpcodeTable.Statement (.brs d) :=
  ⟨condition_mask (show _ = (0b110 : BitVec 3) ++ dispBits d from rfl)
      (show (0b11110 : BitVec 5) ++ (0b110 ++ 0 : BitVec 11) = 0xF600 by decide),
    BitVec.and_zero,
    (show (0xFFFF : Word) = ~~~0x0000 by decide)⟩

theorem OpcodeTable.brns (d : Int) : OpcodeTable.Statement (.brns d) :=
  ⟨condition_mask (show _ = (0b111 : BitVec 3) ++ dispBits d from rfl)
      (show (0b11110 : BitVec 5) ++ (0b111 ++ 0 : BitVec 11) = 0xF700 by decide),
    BitVec.and_zero,
    (show (0xFFFF : Word) = ~~~0x0000 by decide)⟩

end Sys2Proof.Laws
end

