-- ==== Sys2Proof/Laws/Pulse.lean ====
section
/-! SUPPORT. One lemma per thing a pulse can do in the modes that run to `fin`: a plain step, the step that arms an access, the step after it
with the transfer, a step with `fin`; and what these make of a microprogram run. -/

namespace Sys2Proof.Machine

@[simp] theorem andThen_next (s : State) (f : State → Result) : andThen (.next s) f = f s := rfl
@[simp] theorem andThen_fault (e : Fault) (f : State → Result) : andThen (.fault e) f = .fault e := rfl
@[simp] theorem andThen_refused (e : Refusal) (f : State → Result) : andThen (.refused e) f = .refused e := rfl

/-- A composition goes on exactly where its first part does. -/
theorem andThen_eq_next {r : Result} {f : State → Result} {t : State} (h : andThen r f = .next t) :
    ∃ s, r = .next s ∧ f s = .next t := by
  cases r with
  | next s => exact ⟨s, rfl, h⟩
  | fault e => simp at h
  | refused e => simp at h

/-- An error of a composition is an error of one of its parts. -/
theorem andThen_eq_fault {r : Result} {f : State → Result} {e : Fault} (h : andThen r f = .fault e) :
    r = .fault e ∨ ∃ s, r = .next s ∧ f s = .fault e := by
  cases r with
  | next s => exact .inr ⟨s, rfl, h⟩
  | fault e => exact .inl h
  | refused e => simp at h

variable {field : Placeholder → Option Reg} {S : MicroStep} {s t : State}

/-- A pulse is its three parts, one after the other. -/
theorem pulseWith_eq {u v : State} (he : execTokens field S s.clearCarry = .next t) (hq : sequenceStep S t = .next u)
    (ht : memTick u = .next v) (hd : ∀ d ∈ v.devices, d.intRead = .idle) : pulseWith field S s = .next v.stopTest := by
  simp [pulseWith, he, hq, ht, ioTick_quiet hd]

/-- The sequencing of a step with neither `fin` nor `ib-ir` (R289). -/
theorem sequenceStep_plain (hm : t.runsToFin) (hf : S.any Token.isFin = false) (hi : S.any Token.isIbIr = false) :
    sequenceStep S t = .next t.advance := by
  simp [sequenceStep, State.runsToFin_ne_manual hm, hf, hi]

/-- The sequencing of a step with `fin` (R288). -/
theorem sequenceStep_fin (hm : t.runsToFin) (hf : S.any Token.isFin = true) :
    sequenceStep S t = .next t.endInstruction := by
  simp [sequenceStep, State.runsToFin_ne_manual hm, hf]

/-- A step that leaves no access in progress and does not end the instruction. -/
theorem pulse_plain (he : execTokens field S s.clearCarry = .next t) (hm : t.runsToFin)
    (hf : S.any Token.isFin = false) (hi : S.any Token.isIbIr = false) (hq : t.memMode = .idle)
    (hd : ∀ d ∈ t.devices, d.intRead = .idle) : pulseWith field S s = .next t.advance := by
  rw [pulseWith_eq he (sequenceStep_plain hm hf hi) (v := t.advance) (by simp [memTick, hq]) hd, State.stopTest_eq]
  exact hm

/-- A step with `fin` and no access in progress. -/
theorem pulse_fin (he : execTokens field S s.clearCarry = .next t) (hm : t.runsToFin)
    (hf : S.any Token.isFin = true) (hq : t.memMode = .idle)
    (hd : ∀ d ∈ t.devices, d.intRead = .idle) : pulseWith field S s = .next t.endInstruction := by
  rw [pulseWith_eq he (sequenceStep_fin hm hf) (v := t.endInstruction) (by simp [memTick, hq]) hd, State.stopTest_eq]
  exact hm

/-- The step that arms an access: its tick only advances the counter (R74, R75). -/
theorem pulse_arming (he : execTokens field S s.clearCarry = .next t) (hm : t.runsToFin)
    (hf : S.any Token.isFin = false) (hi : S.any Token.isIbIr = false) (hq : t.memMode ≠ .idle) (hc : t.memCnt = 0)
    (hd : ∀ d ∈ t.devices, d.intRead = .idle) : pulseWith field S s = .next { t.advance with memCnt := 1 } := by
  have ht : memTick t.advance = .next { t.advance with memCnt := 1 } := by
    cases h : t.memMode <;> simp_all [memTick]
  rw [pulseWith_eq he (sequenceStep_plain hm hf hi) ht hd, State.stopTest_eq]
  exact hm

/-- The step after the arming of a read: its tick moves the word into MDR (R74, R75). -/
theorem pulse_reading {w : Word} {ds : List Device} (he : execTokens field S s.clearCarry = .next t) (hm : t.runsToFin)
    (hf : S.any Token.isFin = false) (hi : S.any Token.isIbIr = false) (hq : t.memMode = .read) (hc : t.memCnt = 1)
    (hd : ∀ d ∈ t.devices, d.intRead = .idle) (hg : t.getPos t.mar.toNat = some (w, ds)) :
    pulseWith field S s = .next { t.advance with mdr := w, devices := ds, memMode := .idle, memCnt := 0 } := by
  have ht : memTick t.advance = .next { t.advance with mdr := w, devices := ds, memMode := .idle, memCnt := 0 } := by
    have hg' : t.advance.getPos t.mar.toNat = some (w, ds) := hg
    simp [memTick, hq, hc, hg']
  rw [pulseWith_eq he (sequenceStep_plain hm hf hi) ht (State.getPos_quiet hg hd), State.stopTest_eq]
  exact hm

/-- The step after the arming of a write: its tick stores MDR (R74, R75). -/
theorem pulse_writing {r : Memory × List Device} (he : execTokens field S s.clearCarry = .next t) (hm : t.runsToFin)
    (hf : S.any Token.isFin = false) (hi : S.any Token.isIbIr = false) (hq : t.memMode = .write) (hc : t.memCnt = 1)
    (hd : ∀ d ∈ t.devices, d.intRead = .idle) (hg : t.setPos t.mar.toNat t.mdr = some r) :
    pulseWith field S s = .next { t.advance.withMemory r with memMode := .idle, memCnt := 0 } := by
  have ht : memTick t.advance = .next { t.advance.withMemory r with memMode := .idle, memCnt := 0 } := by
    have hg' : t.advance.setPos t.mar.toNat t.mdr = some r := hg
    simp [memTick, hq, hc, hg']
  rw [pulseWith_eq he (sequenceStep_plain hm hf hi) ht (State.setPos_quiet hg hd), State.stopTest_eq]
  exact hm

/-- The transfer of a read from an unmapped address stops the machine with the access still armed (R78, R404). -/
theorem pulse_unreadable (he : execTokens field S s.clearCarry = .next t) (hm : t.runsToFin)
    (hf : S.any Token.isFin = false) (hi : S.any Token.isIbIr = false) (hq : t.memMode = .read) (hc : t.memCnt = 1)
    (hg : t.getPos t.mar.toNat = none) : pulseWith field S s = .fault (.noModuleOrDevice t.advance.halt) := by
  have hg' : t.advance.getPos t.mar.toNat = none := hg
  simp [pulseWith, he, sequenceStep_plain hm hf hi, memTick, hq, hc, hg']

/-- The transfer of a write to an unmapped address likewise. -/
theorem pulse_unwritable (he : execTokens field S s.clearCarry = .next t) (hm : t.runsToFin)
    (hf : S.any Token.isFin = false) (hi : S.any Token.isIbIr = false) (hq : t.memMode = .write) (hc : t.memCnt = 1)
    (hg : t.setPos t.mar.toNat t.mdr = none) : pulseWith field S s = .fault (.noModuleOrDevice t.advance.halt) := by
  have hg' : t.advance.setPos t.mar.toNat t.mdr = none := hg
  simp [pulseWith, he, sequenceStep_plain hm hf hi, memTick, hq, hc, hg']

@[simp] theorem runSteps_nil : runSteps field [] s = .next s := rfl

/-- A run's first pulse. -/
theorem runSteps_cons {rest : Microprogram} (h : pulseWith field S s = .next t) :
    runSteps field (S :: rest) s = runSteps field rest t := by
  simp [runSteps, h]

/-- A run of two programs is a run of the one after the other (R261). -/
theorem runSteps_append {p q : Microprogram} :
    runSteps field (p ++ q) s = andThen (runSteps field p s) (runSteps field q) := by
  induction p generalizing s with
  | nil => rfl
  | cons S p ih =>
    simp only [List.cons_append, runSteps]
    cases pulseWith field S s with
    | next t => simp [ih]
    | fault e => rfl
    | refused e => rfl

/-- A run that stops in its first pulse. -/
theorem runSteps_fault {rest : Microprogram} {e : Fault} (h : pulseWith field S s = .fault e) :
    runSteps field (S :: rest) s = .fault e := by
  simp [runSteps, h]

end Sys2Proof.Machine
end

