-- ==== Sys2Proof/Laws/Sequences.lean ====
section
/-! SUPPORT. What the shared step sequences of the store do (43_microcode_store.md R261, 46_instr_alu.md R351), each said once, from a quiet
state in a mode that runs to `fin`; and the ALU results they need. -/

namespace Sys2Proof.Machine

/-- Adding 0xFFFF without carry decrements (R170). -/
theorem aluAdd_dec_result (a : Word) (x : Alu) (h : x.carryIn = false) : (aluAdd a 0xFFFF x).result = a - 1 := by
  rw [aluAdd_dec a x h]; rfl

/-- Adding 0 with carry increments (R25). -/
theorem aluAdd_inc_result (a : Word) (x : Alu) (h : x.carryIn = true) : (aluAdd a 0 x).result = a + 1 := by
  rw [aluAdd_inc a x h]; rfl

/-- Adding without carry. -/
theorem aluAdd_plain_result (a b : Word) (x : Alu) (h : x.carryIn = false) : (aluAdd a b x).result = a + b := by
  rw [aluAdd_eq a b x h]; rfl

variable {field : Placeholder → Option Reg} {s : State}

/-- Arming an idle memory (R72, R73). -/
theorem arm_idle {m : MemMode} (h : s.memMode = .idle) : arm m s = .next { s with memMode := m, memCnt := 0 } := by
  simp [arm, h]

/-- Arming a busy memory is an error that changes nothing but the clock (R77). -/
theorem arm_busy {m : MemMode} (h : s.memMode ≠ .idle) : arm m s = .fault (.memoryBusy s.halt) := by
  cases h' : s.memMode <;> simp_all [arm]

/-- A run that goes through two pulses, the states named. -/
theorem runSteps_two {S T : MicroStep} {rest : Microprogram} {t u : State} (h1 : pulseWith field S s = .next t)
    (h2 : pulseWith field T t = .next u) : runSteps field (S :: T :: rest) s = runSteps field rest u := by
  rw [runSteps_cons h1, runSteps_cons h2]

/-- The end of an instruction does not look at `upc` or the step counter. -/
theorem State.endInstruction_congr {t u : State}
    (h : { t with upc := 0, stepCount := 0 } = { u with upc := 0, stepCount := 0 }) : t.endInstruction = u.endInstruction :=
  (congrArg State.endInstruction h :)

/-- A quiet state stays quiet where memory mode, counter and devices are kept. -/
theorem Quiet.of_eq {t : State} (h : Quiet s) (hm : t.memMode = s.memMode) (hc : t.memCnt = s.memCnt)
    (hd : t.devices = s.devices) : Quiet t :=
  ⟨hm.trans h.idle, hc.trans h.count, hd ▸ h.devices⟩

/-- *push-address* leaves R7, MAR, TMPS and IB at the decremented stack pointer (R261). -/
theorem runSteps_pushAddress {rest : Microprogram} (hq : Quiet s) (hm : s.runsToFin) :
    runSteps field (pushAddress ++ rest) s =
      runSteps field rest
        { s.pushed with ib := s.reg spReg - 1, upc := s.upc + 1 + 1, stepCount := s.stepCount + 1 + 1 } := by
  have h1 : pulseWith field [.sig (.regIb spReg), .sig .tmpeSet, .sig .add, .sig .aluTmps] s =
      .next { s with
        ib := s.reg spReg
        tmpe := 0xFFFF
        alu := aluAdd (s.reg spReg) 0xFFFF { s.alu with carryIn := false }
        tmps := (aluAdd (s.reg spReg) 0xFFFF { s.alu with carryIn := false }).result
        upc := s.upc + 1
        stepCount := s.stepCount + 1 } := by
    refine (pulse_plain (t := { s with
        ib := s.reg spReg
        tmpe := 0xFFFF
        alu := aluAdd (s.reg spReg) 0xFFFF { s.alu with carryIn := false }
        tmps := (aluAdd (s.reg spReg) 0xFFFF { s.alu with carryIn := false }).result })
      ?_ hm rfl rfl hq.idle hq.devices).trans rfl
    simp only [execTokens, execToken, Token.resolve, execSignal, andThen_next]
    rfl
  rw [aluAdd_dec _ _ rfl] at h1
  refine runSteps_two h1 ?_
  simp only [State.pushed, State.withAlu]
  generalize hx : aluOf (s.reg spReg) 0xFFFF (s.reg spReg - 1) (s.reg spReg != 0) (s.reg spReg == 0x8000) = x
  have hr : x.result = s.reg spReg - 1 := by rw [← hx]; rfl
  have hx' : { x with carryIn := false } = x := by rw [← hx]; rfl
  rw [hr]
  refine (pulse_plain (t := { s.setReg spReg (s.reg spReg - 1) with
        ib := s.reg spReg - 1
        mar := s.reg spReg - 1
        tmps := s.reg spReg - 1
        tmpe := 0xFFFF
        alu := { x with carryIn := false }
        upc := s.upc + 1
        stepCount := s.stepCount + 1 }) rfl hm rfl rfl hq.idle hq.devices).trans ?_
  rw [hx']
  rfl

/-- What storing a word leaves: MDR and IB hold it, the memory at MAR has it. -/
def afterStore (s : State) (v : Word) (r : Memory × List Device) : State :=
  { s.withMemory r with
    ib := v
    mdr := v
    alu := { s.alu with carryIn := false }
    memMode := .idle
    memCnt := 0
    upc := s.upc + 1 + 1
    stepCount := s.stepCount + 1 + 1 }

/-- The step that drives a word into MDR and arms the write, and the empty step (R260). -/
theorem runSteps_store {S : Token} {v : Word} {r : Memory × List Device} {rest : Microprogram} (hq : Quiet s)
    (hm : s.runsToFin) (hS : ∀ t : State, t.regs = s.regs → t.pc = s.pc → t.sr = s.sr → execToken field S t = .next { t with ib := v })
    (hf : S.isFin = false) (hi : S.isIbIr = false) (hw : s.setPos s.mar.toNat v = some r) :
    runSteps field ([S, .sig .ibMdr, .sig .write] :: [] :: rest) s = runSteps field rest (afterStore s v r) := by
  have h1 : pulseWith field [S, .sig .ibMdr, .sig .write] s =
      .next { s with
        ib := v
        mdr := v
        alu := { s.alu with carryIn := false }
        memMode := .write
        memCnt := 1
        upc := s.upc + 1
        stepCount := s.stepCount + 1 } := by
    refine (pulse_arming (t := { s with ib := v, mdr := v, alu := { s.alu with carryIn := false }, memMode := .write, memCnt := 0 })
      ?_ hm ?_ ?_ (by simp) rfl hq.devices).trans rfl
    · simp only [execTokens]
      rw [hS s.clearCarry rfl rfl rfl]
      simp only [execToken, Token.resolve, execSignal, andThen_next, State.clearCarry]
      rw [arm_idle]
      · rfl
      · exact hq.idle
    · simp only [List.any_cons, hf]; rfl
    · simp only [List.any_cons, hi]; rfl
  refine runSteps_two h1 ?_
  refine (pulse_writing rfl ?_ rfl rfl rfl rfl ?_ ?_).trans rfl
  · exact hm
  · exact hq.devices
  · exact hw

/-- The same where nothing is mapped at MAR: the error comes at the end of the empty step (R404). -/
theorem runSteps_store_unmapped {S : Token} {v : Word} {rest : Microprogram} (hq : Quiet s)
    (hm : s.runsToFin) (hS : ∀ t : State, t.regs = s.regs → t.pc = s.pc → t.sr = s.sr → execToken field S t = .next { t with ib := v })
    (hf : S.isFin = false) (hi : S.isIbIr = false) (hw : s.setPos s.mar.toNat v = none) :
    runSteps field ([S, .sig .ibMdr, .sig .write] :: [] :: rest) s =
      .fault (.noModuleOrDevice { s with
        ib := v
        mdr := v
        alu := { s.alu with carryIn := false }
        memMode := .write
        memCnt := 1
        upc := s.upc + 1 + 1
        stepCount := s.stepCount + 1 + 1
        running := false }) := by
  have h1 : pulseWith field [S, .sig .ibMdr, .sig .write] s =
      .next { s with
        ib := v
        mdr := v
        alu := { s.alu with carryIn := false }
        memMode := .write
        memCnt := 1
        upc := s.upc + 1
        stepCount := s.stepCount + 1 } := by
    refine (pulse_arming (t := { s with ib := v, mdr := v, alu := { s.alu with carryIn := false }, memMode := .write, memCnt := 0 })
      ?_ hm ?_ ?_ (by simp) rfl hq.devices).trans rfl
    · simp only [execTokens]
      rw [hS s.clearCarry rfl rfl rfl]
      simp only [execToken, Token.resolve, execSignal, andThen_next, State.clearCarry]
      rw [arm_idle]
      · rfl
      · exact hq.idle
    · simp only [List.any_cons, hf]; rfl
    · simp only [List.any_cons, hi]; rfl
  rw [runSteps_cons h1]
  refine (runSteps_fault (pulse_unwritable rfl ?_ rfl rfl rfl rfl ?_)).trans rfl
  · exact hm
  · exact hw

/-- The first step of *pop*: MAR and the ALU have the stack pointer, TMPS the incremented one, a read is armed. -/
theorem pulse_pop (hq : Quiet s) (hm : s.runsToFin) :
    pulseWith field [.sig (.regIb spReg), .sig .tmpeClr, .sig .carryIn, .sig .add, .sig .aluTmps, .sig .ibMar, .sig .read] s =
      .next { s.popped s.mdr s.devices with
        regs := s.regs
        ib := s.reg spReg
        alu := { (s.popped s.mdr s.devices).alu with carryIn := true }
        memMode := .read
        memCnt := 1
        upc := s.upc + 1
        stepCount := s.stepCount + 1 } := by
  have h1 : pulseWith field
        [.sig (.regIb spReg), .sig .tmpeClr, .sig .carryIn, .sig .add, .sig .aluTmps, .sig .ibMar, .sig .read] s =
      .next { s with
        ib := s.reg spReg
        tmpe := 0
        alu := aluAdd (s.reg spReg) 0 { s.alu with carryIn := true }
        tmps := (aluAdd (s.reg spReg) 0 { s.alu with carryIn := true }).result
        mar := s.reg spReg
        memMode := .read
        memCnt := 1
        upc := s.upc + 1
        stepCount := s.stepCount + 1 } := by
    refine (pulse_arming (t := { s with
        ib := s.reg spReg
        tmpe := 0
        alu := aluAdd (s.reg spReg) 0 { s.alu with carryIn := true }
        tmps := (aluAdd (s.reg spReg) 0 { s.alu with carryIn := true }).result
        mar := s.reg spReg
        memMode := .read
        memCnt := 0 }) ?_ hm rfl rfl (by simp) rfl hq.devices).trans rfl
    simp only [execTokens, execToken, Token.resolve, execSignal, andThen_next, State.clearCarry]
    rw [arm_idle]
    · rfl
    · exact hq.idle
  rw [h1, aluAdd_inc _ _ rfl]
  rfl

/-- *pop* leaves the word at the old stack pointer in MDR and R7 incremented (R261). -/
theorem runSteps_pop {v : Word} {ds : List Device} {rest : Microprogram} (hq : Quiet s) (hm : s.runsToFin)
    (hr : s.getPos (s.reg spReg).toNat = some (v, ds)) :
    runSteps field (popSequence ++ rest) s =
      runSteps field rest
        { s.popped v ds with ib := s.reg spReg + 1, upc := s.upc + 1 + 1 + 1, stepCount := s.stepCount + 1 + 1 + 1 } := by
  have h1 := pulse_pop (field := field) hq hm
  refine (runSteps_cons h1).trans ?_
  have hd : ∀ d ∈ ds, d.intRead = .idle := State.getPos_quiet hr hq.devices
  simp only [State.popped, State.withAlu]
  generalize hx : aluOf (s.reg spReg) 0 (s.reg spReg + 1) (s.reg spReg == 0xFFFF) (s.reg spReg == 0x7FFF) = x
  have hx' : { x with carryIn := false } = x := by rw [← hx]; rfl
  have h2 : pulseWith field [] { s with
        ib := s.reg spReg
        tmpe := 0
        alu := { x with carryIn := true }
        tmps := s.reg spReg + 1
        mar := s.reg spReg
        memMode := .read
        memCnt := 1
        upc := s.upc + 1
        stepCount := s.stepCount + 1 } =
      .next { s with
        ib := s.reg spReg
        tmpe := 0
        alu := { x with carryIn := false }
        tmps := s.reg spReg + 1
        mar := s.reg spReg
        mdr := v
        devices := ds
        memMode := .idle
        memCnt := 0
        upc := s.upc + 1 + 1
        stepCount := s.stepCount + 1 + 1 } := by
    refine (pulse_reading rfl ?_ rfl rfl rfl rfl ?_ ?_).trans rfl
    · exact hm
    · exact hq.devices
    · exact hr
  rw [hx'] at h2
  refine runSteps_two h2 ?_
  refine (pulse_plain (t := { s.setReg spReg (s.reg spReg + 1) with
        ib := s.reg spReg + 1
        tmpe := 0
        alu := { x with carryIn := false }
        tmps := s.reg spReg + 1
        mar := s.reg spReg
        mdr := v
        devices := ds
        memMode := .idle
        memCnt := 0
        upc := s.upc + 1 + 1
        stepCount := s.stepCount + 1 + 1 }) rfl hm rfl rfl rfl hd).trans ?_
  rw [hx', ← hq.idle, ← hq.count]
  rfl

/-- *pop* from an unmapped address: the error comes at the end of the empty step, with R7 not yet incremented (R328). -/
theorem runSteps_pop_unmapped {rest : Microprogram} (hq : Quiet s) (hm : s.runsToFin)
    (hr : s.getPos (s.reg spReg).toNat = none) :
    runSteps field (popSequence ++ rest) s =
      .fault (.noModuleOrDevice
        ({ s.popped s.mdr s.devices with regs := s.regs, ib := s.reg spReg }.stuckAt .read (s.upc + 1 + 1) (1 + 1))) := by
  refine (runSteps_cons (pulse_pop hq hm)).trans ?_
  refine (runSteps_fault (pulse_unreadable rfl ?_ rfl rfl rfl rfl ?_)).trans rfl
  · exact hm
  · exact hr

/-- *relative* leaves PC, TMPS and IB at the target, its `fin` included (R360). -/
theorem runSteps_relative {d : Int} (hd : displacementFits d) (hir : lowByte s.ir = dispBits d) (hq : Quiet s)
    (hm : s.runsToFin) : runSteps field relativeJump s = .next (s.jumped d).finish := by
  have hl : s.latch (dispBits d) = s := by
    rw [← hir]
    show { s with ir := bytes (highByte s.ir) (lowByte s.ir) } = s
    rw [bytes_highByte_lowByte]
  have hk : signExtendByte (lowByte s.ir) = BitVec.ofInt 16 d := by rw [hir, signExtendByte_dispBits hd]
  have h1 : pulseWith field [.sig .pcIb, .sig .ibTmpe] s =
      .next { s with
        ib := s.pc
        tmpe := s.pc
        alu := { s.alu with carryIn := false }
        upc := s.upc + 1
        stepCount := s.stepCount + 1 } := by
    refine (pulse_plain rfl ?_ rfl rfl ?_ ?_).trans rfl
    · exact hm
    · exact hq.idle
    · exact hq.devices
  have h2 : pulseWith field [.sig .extirlIb, .sig .add, .sig .aluTmps] { s with
        ib := s.pc
        tmpe := s.pc
        alu := { s.alu with carryIn := false }
        upc := s.upc + 1
        stepCount := s.stepCount + 1 } =
      .next { s with
        ib := signExtendByte (lowByte s.ir)
        tmpe := s.pc
        alu := aluAdd (signExtendByte (lowByte s.ir)) s.pc { s.alu with carryIn := false }
        tmps := (aluAdd (signExtendByte (lowByte s.ir)) s.pc { s.alu with carryIn := false }).result
        upc := s.upc + 1 + 1
        stepCount := s.stepCount + 1 + 1 } := by
    refine (pulse_plain rfl ?_ rfl rfl ?_ ?_).trans rfl
    · exact hm
    · exact hq.idle
    · exact hq.devices
  rw [hk, aluAdd_eq _ _ _ rfl, BitVec.add_comm] at h2
  refine (runSteps_two h1 h2).trans ?_
  have hj : s.jumped d = { s with
      tmpe := s.pc
      tmps := s.pc + BitVec.ofInt 16 d
      ib := s.pc + BitVec.ofInt 16 d
      pc := s.pc + BitVec.ofInt 16 d
      alu := aluOf (BitVec.ofInt 16 d) s.pc (s.pc + BitVec.ofInt 16 d) ((BitVec.ofInt 16 d).uaddOverflow s.pc)
        ((BitVec.ofInt 16 d).saddOverflow s.pc) } := by
    show ({ (s.latch (dispBits d)).withAlu _ _ _ _ _ with tmpe := _, tmps := _, ib := _, pc := _ } : State) = _
    rw [hl]; rfl
  rw [hj]
  generalize hx : aluOf (BitVec.ofInt 16 d) s.pc (s.pc + BitVec.ofInt 16 d) ((BitVec.ofInt 16 d).uaddOverflow s.pc)
        ((BitVec.ofInt 16 d).saddOverflow s.pc) = x
  have hr : x.result = s.pc + BitVec.ofInt 16 d := by rw [← hx]; rfl
  rw [hr]
  generalize s.pc + BitVec.ofInt 16 d = w
  exact (runSteps_cons (pulse_fin (t := { s with
        ib := w
        tmpe := s.pc
        alu := { x with carryIn := false }
        tmps := w
        pc := w
        upc := s.upc + 1 + 1
        stepCount := s.stepCount + 1 + 1 }) rfl hm rfl hq.idle hq.devices)).trans rfl

/-- What the three-operand shape leaves, its `fin` included (R351). -/
def afterThreeOperand (s : State) (rd : Reg) (b : Word) (x : Alu) : State :=
  { s.setReg rd x.result with
    tmpe := b
    ib := x.result
    tmps := x.result
    alu := x
    sr := copyFlags x s.sr }

/-- The three-operand shape with the operation `op` whose effect on the ALU is `f` (R351). -/
theorem runSteps_threeOperand {op : Signal} {f : Word → Word → Alu → Alu} {rd rs1 rs2 : Reg} (hq : Quiet s)
    (hm : s.runsToFin) (hop : ∀ t : State, t.cfg = s.cfg → execSignal op t = .next { t with alu := f t.ib t.tmpe t.alu })
    (hf : (Token.sig op).isFin = false) (hi : (Token.sig op).isIbIr = false)
    (h1 : field .rs1 = some rs1) (h2 : field .rs2 = some rs2) (hd : field .rd = some rd) :
    runSteps field (threeOperand op) s =
      .next (afterThreeOperand s rd (s.reg rs2) (f (s.reg rs1) (s.reg rs2) { s.alu with carryIn := false })).finish := by
  have p1 : pulseWith field [.phIb .rs2, .sig .ibTmpe] s =
      .next { s with
        ib := s.reg rs2
        tmpe := s.reg rs2
        alu := { s.alu with carryIn := false }
        upc := s.upc + 1
        stepCount := s.stepCount + 1 } := by
    refine (pulse_plain (t := { s with ib := s.reg rs2, tmpe := s.reg rs2, alu := { s.alu with carryIn := false } })
      ?_ hm rfl rfl hq.idle hq.devices).trans rfl
    simp only [execTokens, execToken, Token.resolve, h2]
    rfl
  generalize hx : f (s.reg rs1) (s.reg rs2) { s.alu with carryIn := false } = x
  have p2 : pulseWith field [.phIb .rs1, .sig op, .sig .aluTmps, .sig .aluSr] { s with
        ib := s.reg rs2
        tmpe := s.reg rs2
        alu := { s.alu with carryIn := false }
        upc := s.upc + 1
        stepCount := s.stepCount + 1 } =
      .next { s with
        ib := s.reg rs1
        tmpe := s.reg rs2
        alu := x
        tmps := x.result
        sr := copyFlags x s.sr
        upc := s.upc + 1 + 1
        stepCount := s.stepCount + 1 + 1 } := by
    refine (pulse_plain (t := { s with
        ib := s.reg rs1
        tmpe := s.reg rs2
        alu := x
        tmps := x.result
        sr := copyFlags x s.sr
        upc := s.upc + 1
        stepCount := s.stepCount + 1 }) ?_ hm ?_ ?_ hq.idle hq.devices).trans rfl
    · rw [← hx]
      simp only [execTokens, execToken, Token.resolve, h1, Option.map_some]
      change andThen (execSignal op { s with
        ib := s.reg rs1
        tmpe := s.reg rs2
        alu := { s.alu with carryIn := false }
        upc := s.upc + 1
        stepCount := s.stepCount + 1 }) _ = _
      rw [hop]
      · rfl
      · rfl
    · simp only [List.any_cons, hf]; rfl
    · simp only [List.any_cons, hi]; rfl
  refine (runSteps_two p1 p2).trans ?_
  refine (runSteps_cons (pulse_fin (t := { s.setReg rd x.result with
        ib := x.result
        tmpe := s.reg rs2
        alu := { x with carryIn := false }
        tmps := x.result
        sr := copyFlags x s.sr
        upc := s.upc + 1 + 1
        stepCount := s.stepCount + 1 + 1 }) ?_ hm rfl hq.idle hq.devices)).trans rfl
  simp only [execTokens, execToken, Token.resolve, hd]
  rfl

end Sys2Proof.Machine
end

