-- ==== Sys2Proof/Tests/Slice0.lean ====
section
/-! SUPPORT. The model's own tests. Expected values come from spec/: the words of 95_test_vectors.md section 4 written out from
the formats of 30_encoding.md, the results of its sections 1 and 6 to 11. The last part shows, for each statement that has
hypotheses, a concrete state that meets them. -/

open Sys2Proof Sys2Proof.Machine

namespace Sys2Proof.Tests

/-! ### Well-formedness -/

theorem test_wellFormed_refuses_128 : ¬ (Instr.jr 128).WellFormed := by decide
theorem test_wellFormed_refuses_minus_129 : ¬ (Instr.brz (-129)).WellFormed := by decide
theorem test_wellFormed_admits_bounds : (Instr.callr 127).WellFormed ∧ (Instr.brns (-128)).WellFormed := by decide

/-! ### Decoding: one word per instruction, from the formats -/

theorem test_decode_nop : decodeInstruction 0b00000_000_00000000 = .ok (.nop) := rfl
theorem test_decode_mov : decodeInstruction 0b00001_001_010_00000 = .ok (.mov 1 2) := rfl
theorem test_decode_movLoad : decodeInstruction 0b00010_011_100_00000 = .ok (.movLoad 3 4) := rfl
theorem test_decode_movStore : decodeInstruction 0b00011_100_011_00000 = .ok (.movStore 4 3) := rfl
theorem test_decode_movl : decodeInstruction 0b00100_000_00000101 = .ok (.movl 0 5) := rfl
theorem test_decode_movh : decodeInstruction 0b00101_000_00010010 = .ok (.movh 0 0x12) := rfl
theorem test_decode_push : decodeInstruction 0b00110_001_00000000 = .ok (.push 1) := rfl
theorem test_decode_pop : decodeInstruction 0b00111_010_00000000 = .ok (.pop 2) := rfl
theorem test_decode_add : decodeInstruction 0b01000_001_010_011_00 = .ok (.add 1 2 3) := rfl
theorem test_decode_sub : decodeInstruction 0b01001_001_010_011_00 = .ok (.sub 1 2 3) := rfl
theorem test_decode_or : decodeInstruction 0b01010_001_010_011_00 = .ok (.or 1 2 3) := rfl
theorem test_decode_and : decodeInstruction 0b01011_001_010_011_00 = .ok (.and 1 2 3) := rfl
theorem test_decode_xor : decodeInstruction 0b01100_001_010_011_00 = .ok (.xor 1 2 3) := rfl
theorem test_decode_cmp : decodeInstruction 0b01101_001_010_00000 = .ok (.cmp 1 2) := rfl
theorem test_decode_not : decodeInstruction 0b10000_101_00000000 = .ok (.not 5) := rfl
theorem test_decode_inc : decodeInstruction 0b10001_101_00000000 = .ok (.inc 5) := rfl
theorem test_decode_dec : decodeInstruction 0b10010_101_00000000 = .ok (.dec 5) := rfl
theorem test_decode_neg : decodeInstruction 0b10011_101_00000000 = .ok (.neg 5) := rfl
theorem test_decode_cli : decodeInstruction 0b10100_000_00000000 = .ok (.cli) := rfl
theorem test_decode_sti : decodeInstruction 0b10101_000_00000000 = .ok (.sti) := rfl
theorem test_decode_int : decodeInstruction 0b10110_000_00100000 = .ok (.int 0x20) := rfl
theorem test_decode_iret : decodeInstruction 0b10111_000_00000000 = .ok (.iret) := rfl
theorem test_decode_jr : decodeInstruction 0b11000_000_11111111 = .ok (.jr (-1)) := rfl
theorem test_decode_jmp : decodeInstruction 0b11001_110_00000000 = .ok (.jmp 6) := rfl
theorem test_decode_callr : decodeInstruction 0b11010_000_00001010 = .ok (.callr 10) := rfl
theorem test_decode_call : decodeInstruction 0b11011_110_00000000 = .ok (.call 6) := rfl
theorem test_decode_ret : decodeInstruction 0b11100_000_00000000 = .ok (.ret) := rfl
theorem test_decode_brc : decodeInstruction 0b11110_000_00000010 = .ok (.brc 2) := rfl
theorem test_decode_brnc : decodeInstruction 0b11110_001_00000010 = .ok (.brnc 2) := rfl
theorem test_decode_bro : decodeInstruction 0b11110_010_11111110 = .ok (.bro (-2)) := rfl
theorem test_decode_brno : decodeInstruction 0b11110_011_00000101 = .ok (.brno 5) := rfl
theorem test_decode_brz : decodeInstruction 0b11110_100_00000001 = .ok (.brz 1) := rfl
theorem test_decode_brnz : decodeInstruction 0b11110_101_11111101 = .ok (.brnz (-3)) := rfl
theorem test_decode_brs : decodeInstruction 0b11110_110_00000001 = .ok (.brs 1) := rfl
theorem test_decode_brns : decodeInstruction 0b11110_111_00000001 = .ok (.brns 1) := rfl

theorem test_decode_ignores_unused_bits : decodeInstruction 0xB720 = .ok (.int 0x20) := rfl
theorem test_decode_reserved_0x7ABC : decodeInstruction 0x7ABC = .error .badInstruction := rfl
theorem test_decode_reserved_0xE800 : decodeInstruction 0xE800 = .error .badInstruction := rfl
theorem test_decode_pseudo_opcode : decodeInstruction 0xFFFF = .error .badInstruction := rfl
theorem test_decode_boundaries :
    decodeInstruction 0x6FFF = .ok (.cmp 7 7) ∧ decodeInstruction 0xF7FF = .ok (.brns (-1)) := ⟨rfl, rfl⟩
theorem test_render : (Instr.movh 0 0x1A).render = "MOVH R0,#1A" ∧ (Instr.movStore 4 3).render = "MOV [R4],R3"
    ∧ (Instr.brnz (-3)).render = "BRNZ -3" := by decide
theorem test_tableWord : decodeTableWord 16 0xDF00 = some (.call 7) := rfl

/-! ### The microcode store (43_microcode_store.md R250, R255, R257) -/

theorem test_store_length : storeSteps.length = 106 := by decide
theorem test_int_address : intAddress.val = instructionStore.steps.length := by decide
theorem test_first : firstAddress 0b01001 = 26 ∧ firstAddress 0b10110 = 52 ∧ firstAddress brFalseOpcode = 94 := by decide
theorem test_signal_catalogue : allSignals.map Signal.idx = List.range 61 := by decide

/-! ### Instruction vectors: one step from the boundary, at most two per instruction -/

/-- The machine of 95_test_vectors.md section 6: a 32K module at 0, R7 = 0x8000, at an instruction boundary; then what `f` changes. -/
def machine (pc w : Word) (f : State → State) : State :=
  f { State.reset.setReg spReg 0x8000 with
        modules := [⟨0, 32⟩]
        pc := pc
        cells := Memory.write 0 [] pc.toNat w }

/-- A word placed in memory. -/
def poke (a : Nat) (v : Word) (s : State) : State := { s with cells := s.cells.write 0 a v }

/-- SR set. -/
def withSr (v : BitVec 5) (s : State) : State := { s with sr := v }

/-- The result is a next state with the property. -/
def gives (r : Result) (p : State → Bool) : Bool :=
  match r with
  | .next t => p t
  | .fault _ | .refused _ => false

/-- The result is an error whose kind and state have the property. -/
def stops (r : Result) (p : Fault → Bool) : Bool :=
  match r with
  | .fault e => p e
  | .next _ | .refused _ => false

theorem test_nop : gives (step (machine 0x0100 0x0000 id))
    (fun t => t.pc == 0x0101) = true := by decide
theorem test_mov : gives (step (machine 0x0100 0x0940 (·.setReg 2 0xBEEF)))
    (fun t => t.reg 1 == 0xBEEF && t.pc == 0x0101) = true := by decide
theorem test_movLoad : gives (step (machine 0x0100 0x1380 ((·.setReg 4 0x0200) ∘ poke 0x0200 0x1234)))
    (fun t => t.reg 3 == 0x1234 && t.pc == 0x0101) = true := by decide
theorem test_movStore : gives (step (machine 0x0100 0x1C60 ((·.setReg 4 0x0200) ∘ (·.setReg 3 0xCAFE))))
    (fun t => t.peekPos 0x0200 == some 0xCAFE && t.pc == 0x0101) = true := by decide
theorem test_movl : gives (step (machine 0x0100 0x2005 (·.setReg 0 0xAB00)))
    (fun t => t.reg 0 == 0xAB05 && t.pc == 0x0101) = true := by decide
theorem test_movh : gives (step (machine 0x0100 0x2812 (·.setReg 0 0x0005)))
    (fun t => t.reg 0 == 0x1205 && t.pc == 0x0101) = true := by decide
theorem test_push_1 : gives (step (machine 0x0100 0x3100 (·.setReg 1 0x1111)))
    (fun t => t.reg 7 == 0x7FFF && t.peekPos 0x7FFF == some 0x1111 && t.pc == 0x0101) = true := by decide
theorem test_push_2 : gives (step (machine 0x0100 0x3700 id))
    (fun t => t.reg 7 == 0x7FFF && t.peekPos 0x7FFF == some 0x7FFF && t.pc == 0x0101) = true := by decide
theorem test_pop_1 : gives (step (machine 0x0100 0x3A00 ((·.setReg 7 0x7FFF) ∘ poke 0x7FFF 0x1111)))
    (fun t => t.reg 2 == 0x1111 && t.reg 7 == 0x8000 && t.pc == 0x0101) = true := by decide
theorem test_pop_2 : gives (step (machine 0x0100 0x3F00 ((·.setReg 7 0x7FFF) ∘ poke 0x7FFF 0x1111)))
    (fun t => t.reg 7 == 0x1111 && t.pc == 0x0101) = true := by decide
theorem test_add_1 : gives (step (machine 0x0100 0x414C ((·.setReg 2 0x7FFF) ∘ (·.setReg 3 0x0001))))
    (fun t => t.reg 1 == 0x8000 && t.sr == 0b01100) = true := by decide
theorem test_add_2 : gives (step (machine 0x0100 0x414C ((·.setReg 2 0x8000) ∘ (·.setReg 3 0x8000) ∘ withSr 0b10000)))
    (fun t => t.reg 1 == 0x0000 && t.sr == 0b10111) = true := by decide
theorem test_sub_1 : gives (step (machine 0x0100 0x494C ((·.setReg 2 0x0000) ∘ (·.setReg 3 0x0001))))
    (fun t => t.reg 1 == 0xFFFF && t.sr == 0b01010) = true := by decide
theorem test_sub_2 : gives (step (machine 0x0100 0x494C ((·.setReg 2 0x8000) ∘ (·.setReg 3 0x0001))))
    (fun t => t.reg 1 == 0x7FFF && t.sr == 0b00100) = true := by decide
theorem test_or : gives (step (machine 0x0100 0x514C ((·.setReg 2 0x00F0) ∘ (·.setReg 3 0x0F00))))
    (fun t => t.reg 1 == 0x0FF0 && t.pc == 0x0101) = true := by decide
theorem test_and : gives (step (machine 0x0100 0x594C ((·.setReg 2 0xF000) ∘ (·.setReg 3 0x0FFF))))
    (fun t => t.reg 1 == 0x0000 && t.sr == 0b00001) = true := by decide
theorem test_xor : gives (step (machine 0x7FFF 0x614C ((·.setReg 2 0x1234) ∘ (·.setReg 3 0xFFFF) ∘ withSr 0b00010)))
    (fun t => t.reg 1 == 0xEDCB && t.sr == 0b01100) = true := by decide
theorem test_cmp : gives (step (machine 0x0100 0x6940 ((·.setReg 1 0x0042) ∘ (·.setReg 2 0x0042))))
    (fun t => t.reg 1 == 0x0042 && t.sr == 0b00001) = true := by decide
theorem test_not : gives (step (machine 0x0100 0x8500 (·.setReg 5 0x1234)))
    (fun t => t.reg 5 == 0xEDCB && t.sr == 0b01000) = true := by decide
theorem test_inc_1 : gives (step (machine 0x0100 0x8D00 (·.setReg 5 0xFFFF)))
    (fun t => t.reg 5 == 0x0000 && t.sr == 0b00011) = true := by decide
theorem test_inc_2 : gives (step (machine 0x0100 0x8D00 (·.setReg 5 0x7FFF)))
    (fun t => t.reg 5 == 0x8000 && t.sr == 0b01100) = true := by decide
theorem test_dec_1 : gives (step (machine 0x0100 0x9500 (·.setReg 5 0x0001)))
    (fun t => t.reg 5 == 0x0000 && t.sr == 0b00011) = true := by decide
theorem test_dec_2 : gives (step (machine 0x0100 0x9500 (·.setReg 5 0x8000)))
    (fun t => t.reg 5 == 0x7FFF && t.sr == 0b00110) = true := by decide
theorem test_neg_1 : gives (step (machine 0x0100 0x9D00 (·.setReg 5 0x0000)))
    (fun t => t.reg 5 == 0x0000 && t.sr == 0b00011) = true := by decide
theorem test_neg_2 : gives (step (machine 0x0100 0x9D00 (·.setReg 5 0x8000)))
    (fun t => t.reg 5 == 0x8000 && t.sr == 0b01100) = true := by decide
theorem test_cli : gives (step (machine 0x0100 0xA000 (withSr 0b10001)))
    (fun t => t.pc == 0x0101 && t.sr == 0b00001) = true := by decide
theorem test_sti : gives (step (machine 0x0100 0xA800 (withSr 0b00001)))
    (fun t => t.pc == 0x0101 && t.sr == 0b10001) = true := by decide
theorem test_int : gives (step (machine 0x0100 0xB020 (withSr 0b10001 ∘ poke 0x0020 0x0300)))
    (fun t => t.peekPos 0x7FFF == some 0x0011 && t.peekPos 0x7FFE == some 0x0101 && t.reg 7 == 0x7FFE && t.pc == 0x0300
      && t.sr == 0b00001) = true := by decide
theorem test_iret : gives (step (machine 0x0300 0xB800 ((·.setReg 7 0x7FFE) ∘ poke 0x7FFE 0x0101 ∘ poke 0x7FFF 0x0011)))
    (fun t => t.pc == 0x0101 && t.reg 7 == 0x8000 && t.sr == 0b10001) = true := by decide
theorem test_jr_1 : gives (step (machine 0x0100 0xC0FF id))
    (fun t => t.pc == 0x0100) = true := by decide
theorem test_jr_2 : gives (step (machine 0x0010 0xC080 id))
    (fun t => t.pc == 0xFF91) = true := by decide
theorem test_jmp : gives (step (machine 0x0100 0xCE00 (·.setReg 6 0x0200)))
    (fun t => t.pc == 0x0200) = true := by decide
theorem test_callr : gives (step (machine 0x0100 0xD00A id))
    (fun t => t.reg 7 == 0x7FFF && t.peekPos 0x7FFF == some 0x0101 && t.pc == 0x010B) = true := by decide
theorem test_call_1 : gives (step (machine 0x0100 0xDE00 (·.setReg 6 0x0200)))
    (fun t => t.reg 7 == 0x7FFF && t.peekPos 0x7FFF == some 0x0101 && t.pc == 0x0200) = true := by decide
theorem test_call_2 : gives (step (machine 0x0100 0xDF00 id))
    (fun t => t.reg 7 == 0x7FFF && t.peekPos 0x7FFF == some 0x0101 && t.pc == 0x7FFF) = true := by decide
theorem test_ret : gives (step (machine 0x0200 0xE000 ((·.setReg 7 0x7FFF) ∘ poke 0x7FFF 0x0101)))
    (fun t => t.pc == 0x0101 && t.reg 7 == 0x8000) = true := by decide
theorem test_brc_1 : gives (step (machine 0x0100 0xF002 (withSr 0b00010)))
    (fun t => t.pc == 0x0103 && t.sr == 0b00010) = true := by decide
theorem test_brc_2 : gives (step (machine 0x0100 0xF002 (withSr 0b01101)))
    (fun t => t.pc == 0x0101 && t.sr == 0b01101) = true := by decide
theorem test_brnc_1 : gives (step (machine 0x0100 0xF102 (withSr 0b00000)))
    (fun t => t.pc == 0x0103) = true := by decide
theorem test_brnc_2 : gives (step (machine 0x0100 0xF102 (withSr 0b00010)))
    (fun t => t.pc == 0x0101 && t.sr == 0b00010) = true := by decide
theorem test_bro : gives (step (machine 0x0100 0xF2FE (withSr 0b00100)))
    (fun t => t.pc == 0x00FF && t.sr == 0b00100) = true := by decide
theorem test_brno : gives (step (machine 0x0100 0xF305 (withSr 0b00000)))
    (fun t => t.pc == 0x0106) = true := by decide
theorem test_brz : gives (step (machine 0x0101 0xF401 (withSr 0b00001)))
    (fun t => t.pc == 0x0103 && t.sr == 0b00001) = true := by decide
theorem test_brnz_1 : gives (step (machine 0x0104 0xF5FD (withSr 0b00000)))
    (fun t => t.pc == 0x0102) = true := by decide
theorem test_brnz_2 : gives (step (machine 0x0104 0xF5FD (withSr 0b00001)))
    (fun t => t.pc == 0x0105 && t.sr == 0b00001) = true := by decide
theorem test_brs : gives (step (machine 0x0100 0xF601 (withSr 0b01000)))
    (fun t => t.pc == 0x0102 && t.sr == 0b01000) = true := by decide
theorem test_brns : gives (step (machine 0x0100 0xF701 (withSr 0b00000)))
    (fun t => t.pc == 0x0102) = true := by decide

/-! ### Fault vectors (95_test_vectors.md section 7) -/

/-- F1: a reserved opcode. -/
theorem test_fault_reserved :
    stops (step (machine 0x0100 0x7000 id)) (fun e => match e with
      | .badInstruction t => t.pc == 0x0101 && t.ir == 0x7000 && t.upc == 2 && t.stepCount == 3 && !t.running
      | _ => false) = true := by decide

/-- F2: no module at all. -/
theorem test_fault_empty_machine :
    stops (step State.reset) (fun e => match e with
      | .noModuleOrDevice t => t.pc == 0x0101 && t.upc == 2 && t.stepCount == 2 && t.memMode == .read && t.memCnt == 1
      | _ => false) = true := by decide

/-- F5: a push below an unmapped address keeps the decremented R7. -/
theorem test_fault_push :
    stops (step (machine 0x0100 0x3100 (·.setReg 7 0))) (fun e => match e with
      | .noModuleOrDevice t => t.reg 7 == 0xFFFF && t.mar == 0xFFFF && t.upc == 18 && t.stepCount == 7
      | _ => false) = true := by decide

/-- F9: `read` then `write` with no validator. -/
theorem test_fault_memory_busy :
    stops (execTokens (fun _ => none) [.sig .read, .sig .write] State.reset) (fun e => match e with
      | .memoryBusy t => t.memMode == .read
      | _ => false) = true := by decide

/-! ### Manual steps (95_test_vectors.md section 3) -/

/-- A manual step with the given set. -/
def manually (S : List Signal) (f : State → State) : Result :=
  step { f State.reset with modules := [⟨0, 32⟩], mode := .manual, manualSet := S }

theorem test_manual_order : gives (manually [.ibReg 2, .regIb 1] (·.setReg 1 0xBEEF))
    (fun t => t.reg 2 == 0xBEEF && t.stepCount == 1 && t.manualSet == []) = true := by decide
theorem test_manual_kept_bus : gives (manually [.ibReg 5] (·.setReg 5 0x5555)) (fun t => t.reg 5 == 0) = true := by decide
theorem test_manual_sr_with_itself : gives (manually [.ibSr, .srIb] (withSr 0b01010))
    (fun t => t.ib == 0x000A && t.sr == 0b01010) = true := by decide
theorem test_manual_carry_stays : gives (manually [.regIb 1, .tmpeClr, .carryIn, .add, .aluTmps, .aluSr]
    ((·.setReg 1 0x00FF) ∘ withSr 0b10000))
    (fun t => t.tmps == 0x0100 && t.sr == 0b10000 && t.alu.carryIn) = true := by decide
theorem test_manual_two_downloads : stops (manually [.regIb 1, .regIb 2] id) (fun e => match e with
    | .signalConflict t => t.manualSet == [.regIb 1, .regIb 2] && t.stepCount == 0
    | _ => false) = true := by decide
theorem test_manual_inta : stops (manually [.inta] id) (fun e => match e with
    | .noPendingDevice _ => true
    | _ => false) = true := by decide

/-! ### Interrupts and devices (95_test_vectors.md sections 8 and 9) -/

/-- A keyboard at 0xF000 with vector 0x10. -/
def keyboard (queue : List Word) (enabled pending : Bool) : Device where
  name := "kbd"
  base := 0xF000
  size := 2
  vector := 0x10
  priority := 1
  intEnabled := enabled
  pending := pending
  intRead := .idle
  unit := .keyboard queue !queue.isEmpty

/-- Lights at 0xF010 with vector 0x11. -/
def lights (pending : Bool) : Device where
  name := "lights"
  base := 0xF010
  size := 1
  vector := 0x11
  priority := 0
  intEnabled := true
  pending := pending
  intRead := .idle
  unit := .lights 0xA5A5 0

/-- The machine of I1: the interrupt-service block comes next. -/
def interrupted (ds : List Device) : State :=
  machine 0x0102 0 (fun s => { poke 0x0010 0x0200 (poke 0x0011 0x0300 s) with
    sr := 0b10000
    upc := intAddress
    intf := true
    devices := ds })

/-- I1: the frame, the vector, IF. -/
theorem test_interrupt_block : gives (step (interrupted [keyboard [0x41] true true])) (fun t =>
    t.pc == 0x0200 && t.peekPos 0x7FFF == some 0x0010 && t.peekPos 0x7FFE == some 0x0102 && t.sr == 0 && !t.intf) = true := by
  decide

/-- I2: the lower priority number is served first; `intf` stays for the other device. -/
theorem test_interrupt_priority : gives (step (interrupted [keyboard [0x41] true true, lights true])) (fun t =>
    t.pc == 0x0300 && t.intf && t.devices == [keyboard [0x41] true true, lights false]) = true := by decide

/-- F6: the requesting device is gone. -/
theorem test_interrupt_without_device : stops (step (interrupted [])) (fun e => match e with
    | .noPendingDevice t => t.upc == 101 && t.stepCount == 6 && t.mar == 0x7FFE && t.memMode == .write && t.memCnt == 0
    | _ => false) = true := by decide

/-- I3, last part of F10's start: STI with a request hands over to the block. -/
theorem test_sti_then_interrupt : gives (step (machine 0x0100 0xA800 (fun s => { s with intf := true })))
    (fun t => t.upc == intAddress) = true := by decide

/-- K1, steps 6, 7 and 11. -/
theorem test_keyboard_control : (keyboard [1, 2, 3, 4] false false).write 1 0x0003 = keyboard [2, 3] false false
    ∧ ((keyboard [2, 3] false false).read 1).1 = 0x0001
    ∧ (keyboard [2, 3] true true).write 1 0x000C = keyboard [] true true := ⟨rfl, rfl, rfl⟩

/-- K2, step 1. -/
theorem test_lights : ((lights false).write 0 0x00FF).unit = .lights 0xA5A5 0x00FF
    ∧ ((lights false).read 0).1 = 0xA5A5 := ⟨rfl, rfl⟩

/-- K3, steps 1 to 4, on a screen of two cells: dark while off, then lit, then cleared. -/
theorem test_screen :
    let d : Device := { lights false with unit := .screen [0x41, 0x5A] false, size := 3 }
    (d.read 0).1 = 0 ∧ ((d.write 2 0x0002).read 0).1 = 0x41 ∧ ((d.write 2 0x0002).read 2).1 = 0x0002
    ∧ (d.write 2 0x0001).unit = .screen [0, 0] false := by decide

/-! ### Host commands (95_test_vectors.md sections 1 and 11) -/

/-- S5 and M1. -/
theorem test_add_module :
    (command (.addModule 0x4000 16) State.reset).error = none
    ∧ (command (.addModule 0x4000 16) (command (.addModule 0x4000 16) State.reset).state).error = some .conflictError
    ∧ (command (.addModule 0x0001 4) State.reset).error = some .rangeError
    ∧ (command (.addModule 0 3) State.reset).error = some .rangeError := by decide

/-- M1: the reserved base. -/
theorem test_add_device : (command (.addDevice .lights "l" 0x0100 1 0 true) State.reset).error = some .conflictError
    ∧ (command (.addDevice .lights "l" 0x0101 1 0 true) State.reset).error = none := by decide

/-- Z2: blanks and lower case. -/
theorem test_parse : parseLine [' ', 'c', '0', 'f', 'F'] = some 0xC0FF ∧ parseLine ['1', '2', '3', '4', '5'] = none := by decide

/-- S8: the end-to-end example's load. -/
theorem test_load_program :
    gives (step (command (.loadProgram [['0', '1', '0', '0'], ['0', '1', '0', '0'], ['8', '0', '0', '0'], ['2', '0', '0', '5']])
      (command (.addModule 0 32) State.reset).state).state)
      (fun t => t.reg 0 == 0x0005 && t.pc == 0x0101 && t.reg 7 == 0x8000) = true := by decide

/-- S4, third part. -/
theorem test_manual_load : (command (.loadManualSignals ["ib-r2", "r1-ib"]) { State.reset with mode := .manual }).state.manualSet
    = [.regIb 1, .ibReg 2]
    ∧ (command (.loadManualSignals ["r1-ib", "r2-ib"]) { State.reset with mode := .manual }).error = some .signalConflictError := by
  decide

/-- K1, step 2: buffer-full, reported as RangeError. -/
theorem test_buffer_full :
    let s : State := { State.reset with
      devices := [keyboard [0x41] true false]
      cfg := { defaultConfig with kbdCapacity := 1 } }
    (command (.key "kbd" 0x99) s).error = some .rangeError ∧ (command (.key "kbd" 0x99) s).state = s := by decide

/-- R408, U36: while the clock runs a run command and a snapshot are ModeErrors, `stop` is accepted. -/
theorem test_commands_while_running :
    (command .run State.reset.start).error = some .modeError ∧ (command .run State.reset.start).state = State.reset.start
    ∧ (command .stop State.reset.start).error = none
    ∧ (match backup State.reset.start with | .error e => e == .modeError | .ok _ => false) = true := by decide

/-- The interface's placing of a word: the first step after reset runs it (log 7). -/
theorem test_withFetchWord : gives (step (State.reset.withFetchWord 16 0x2005)) (fun t => t.reg 0 == 5) = true := by decide

theorem test_reset_memory_wf : State.reset.cells.wf State.reset.cfg.memFill = true := by decide

/-! ### Witnesses: a concrete state and operands for the hypotheses of each statement that has some -/

/-- A machine with RAM below 0x8000, a keyboard, lights, and no memory elsewhere; R4 points to RAM, R5 nowhere, R6 to the keyboard. -/
def w : State :=
  machine 0x0100 0x0940 (fun s => { ((s.setReg 2 0xBEEF).setReg 4 0x0200).setReg 5 0x9000 |>.setReg 6 0xF000 with
    sr := 0b10010
    devices := [keyboard [0x41] true false, lights true] })

/-- `w` with the stack pointer at an address. -/
def wAt (sp : Word) : State := w.setReg spReg sp

/-- `w` with a word at its PC. -/
def wWord (v : Word) : State := poke 0x0100 v w

/-- `w` at the interrupt-service block, one device requesting. -/
def wInt : State := interrupted [keyboard [0x41] true true]

theorem quiet_w : Quiet w := ⟨rfl, rfl, by decide⟩
theorem quiet_wAt (sp : Word) : Quiet (wAt sp) := ⟨rfl, rfl, quiet_w.devices⟩
theorem boundary_w : Boundary w := ⟨quiet_w, rfl, .inl rfl⟩
theorem boundary_wWord (v : Word) : Boundary (wWord v) := ⟨⟨rfl, rfl, quiet_w.devices⟩, rfl, .inl rfl⟩
theorem quiet_wInt : Quiet wInt := ⟨rfl, rfl, by decide⟩
theorem runs_w : w.runsToFin := .inl rfl

/-- A result that is a next state. -/
theorem next_of_gives {r : Result} (h : gives r (fun _ => true) = true) : ∃ t, r = .next t := by
  cases r with
  | next t => exact ⟨t, rfl⟩
  | fault e => exact absurd h (by simp [gives])
  | refused e => exact absurd h (by simp [gives])

/-- The state a result carries; the reset state for an error. -/
def stateOf (r : Result) : State :=
  match r with
  | .next t => t
  | .fault _ | .refused _ => State.reset

/-- A result that is a next state is that of its state. -/
theorem eq_next_stateOf {r : Result} (h : gives r (fun _ => true) = true) : r = .next (stateOf r) := by
  obtain ⟨t, rfl⟩ := next_of_gives h
  rfl

theorem witness_DecodeOfEncode : (Instr.brns (-128)).WellFormed ∧ (Instr.jr 127).WellFormed := by decide
theorem witness_ReencodeKeepsUsedBits : decodeInstruction 0x414F = .ok (.add 1 2 3) := rfl
theorem witness_IgnoredBitsDoNotMatter : decodeInstruction 0x0940 = .ok (.mov 1 2)
    ∧ (0x095F : Word) &&& (Instr.mov 1 2).usedBits = 0x0940 &&& (Instr.mov 1 2).usedBits := ⟨rfl, rfl⟩
theorem witness_FetchReadsOneWord : Boundary w ∧ w.getPos w.pc.toNat = some (0x0940, w.devices)
    ∧ decodeInstruction 0x0940 = .ok (.mov 1 2) := ⟨boundary_w, by decide, rfl⟩
theorem witness_StepRunsDecodedInstruction : Boundary w ∧ w.getPos w.pc.toNat = some (0x0940, w.devices)
    ∧ decodeInstruction 0x0940 = .ok (.mov 1 2) := witness_FetchReadsOneWord
theorem witness_FetchFromUnmappedAddress : Boundary State.reset ∧ State.reset.getPos State.reset.pc.toNat = none :=
  ⟨⟨⟨rfl, rfl, by decide⟩, rfl, .inl rfl⟩, rfl⟩
theorem witness_FetchOfReservedOpcode : Boundary (wWord 0x7000)
    ∧ (wWord 0x7000).getPos (wWord 0x7000).pc.toNat = some (0x7000, w.devices)
    ∧ decodeInstruction 0x7000 = .error .badInstruction := ⟨boundary_wWord _, by decide, rfl⟩
theorem witness_StepIsItsPulses : { w with upc := 9, memMode := .write }.runsToFin := .inl rfl
theorem witness_StepEndsAtBoundary : w.runsToFin ∧ Boundary w ∧ ∃ t, step w = .next t :=
  ⟨runs_w, boundary_w, next_of_gives (by decide)⟩
theorem witness_StepEndsAtBoundary_error : Boundary State.reset ∧ stops (step State.reset) (fun _ => true) = true :=
  ⟨⟨⟨rfl, rfl, by decide⟩, rfl, .inl rfl⟩, by decide⟩
theorem witness_ManualStepDependsOnTheSet_rejected :
    { w with mode := .manual }.mode = .manual ∧ [Signal.add, .sub].Perm [.sub, .add]
    ∧ validSet { w with mode := .manual }.memMode [.add, .sub] = false := ⟨rfl, .swap _ _ _, by decide⟩
theorem witness_ManualStepDependsOnTheSet_accepted :
    [Signal.ibReg 2, .regIb 1].Perm [.regIb 1, .ibReg 2]
    ∧ ∃ t, step { { w with mode := .manual } with manualSet := [.ibReg 2, .regIb 1] } = .next t :=
  ⟨.swap _ _ _, next_of_gives (by decide)⟩
theorem witness_MoveRegisterResult : Quiet w ∧ w.runsToFin := ⟨quiet_w, runs_w⟩
theorem witness_LoadResult_memory : Quiet w ∧ w.runsToFin ∧ w.getPos (w.reg 4).toNat = some (0, w.devices) :=
  ⟨quiet_w, runs_w, by decide⟩
theorem witness_LoadResult_device : w.getPos (w.reg 6).toNat = some (0x41, [keyboard [] true false, lights true]) := by decide
theorem witness_StoreResult : Quiet w ∧ w.runsToFin
    ∧ w.setPos (w.reg 4).toNat (w.reg 2) = some ([(0x0100, 0x0940), (0x0200, 0xBEEF)], w.devices) :=
  ⟨quiet_w, runs_w, by decide⟩
theorem witness_UnmappedDataAccess : Quiet w ∧ w.runsToFin ∧ w.getPos (w.reg 5).toNat = none
    ∧ w.setPos (w.reg 5).toNat (w.reg 2) = none := ⟨quiet_w, runs_w, by decide, by decide⟩
theorem witness_LoadImmediateResult : Quiet w ∧ w.runsToFin ∧ lowByte w.ir = 0 := ⟨quiet_w, runs_w, by decide⟩
theorem witness_PushResult : Quiet w ∧ w.runsToFin
    ∧ w.setPos (w.reg spReg - 1).toNat (w.pushed.reg 7) = some ([(0x0100, 0x0940), (0x7FFF, 0x7FFF)], w.devices) :=
  ⟨quiet_w, runs_w, by decide⟩
theorem witness_PopResult : Quiet (wAt 0x7FFF) ∧ (wAt 0x7FFF).runsToFin
    ∧ (wAt 0x7FFF).getPos ((wAt 0x7FFF).reg spReg).toNat = some (0, w.devices) :=
  ⟨quiet_wAt _, .inl rfl, by decide⟩
theorem witness_UnmappedStackAccess_push : Quiet (wAt 0) ∧ (wAt 0).runsToFin
    ∧ (wAt 0).setPos ((wAt 0).reg spReg - 1).toNat ((wAt 0).pushed.reg 2) = none
    ∧ (wAt 0).setPos ((wAt 0).reg spReg - 1).toNat (wAt 0).pc = none := ⟨quiet_wAt _, .inl rfl, by decide, by decide⟩
theorem witness_UnmappedStackAccess_pop : Quiet w ∧ w.runsToFin ∧ w.getPos (w.reg spReg).toNat = none :=
  ⟨quiet_w, runs_w, by decide⟩
theorem witness_AddResult : Quiet w ∧ w.runsToFin := ⟨quiet_w, runs_w⟩
theorem witness_SubtractResult : Quiet w ∧ w.runsToFin := ⟨quiet_w, runs_w⟩
theorem witness_LogicResult : Quiet w ∧ w.runsToFin := ⟨quiet_w, runs_w⟩
theorem witness_CompareResult : Quiet w ∧ w.runsToFin := ⟨quiet_w, runs_w⟩
theorem witness_NotResult : Quiet w ∧ w.runsToFin := ⟨quiet_w, runs_w⟩
theorem witness_IncrementDecrementResult : Quiet w ∧ w.runsToFin := ⟨quiet_w, runs_w⟩
theorem witness_NegateResult : Quiet w ∧ w.runsToFin := ⟨quiet_w, runs_w⟩
theorem witness_LogicFlagsAreTheFetchs : Boundary (wWord 0x514C)
    ∧ (wWord 0x514C).getPos (wWord 0x514C).pc.toNat = some (0x514C, w.devices)
    ∧ decodeInstruction 0x514C = .ok (.or 1 2 3) ∧ ∃ t, step (wWord 0x514C) = .next t :=
  ⟨boundary_wWord _, by decide, rfl, next_of_gives (by decide)⟩
theorem witness_InterruptFlagResult : Quiet w ∧ w.runsToFin := ⟨quiet_w, runs_w⟩
theorem witness_SoftwareInterruptResult : Quiet w ∧ w.runsToFin
    ∧ w.setPos (w.reg spReg - 1).toNat (w.sr.setWidth 16) = some ([(0x0100, 0x0940), (0x7FFF, 0x0012)], w.devices)
    ∧ (w.withMemory ([(0x0100, 0x0940), (0x7FFF, 0x0012)], w.devices)).setPos (w.reg spReg - 2).toNat w.pc
      = some ([(0x0100, 0x0940), (0x7FFE, 0x0100), (0x7FFF, 0x0012)], w.devices)
    ∧ (w.withMemory ([(0x0100, 0x0940), (0x7FFE, 0x0100), (0x7FFF, 0x0012)], w.devices)).getPos (0xFF : Byte).toNat
      = some (0, w.devices) := ⟨quiet_w, runs_w, by decide, by decide, by decide⟩
theorem witness_InterruptReturnResult : Quiet (wAt 0x7FFE) ∧ (wAt 0x7FFE).runsToFin
    ∧ (wAt 0x7FFE).getPos ((wAt 0x7FFE).reg spReg).toNat = some (0, w.devices)
    ∧ { wAt 0x7FFE with devices := w.devices }.getPos ((wAt 0x7FFE).reg spReg + 1).toNat = some (0, w.devices) :=
  ⟨quiet_wAt _, .inl rfl, by decide, by decide⟩
theorem witness_UnmappedInterruptFrame_first : Quiet (wAt 0) ∧ (wAt 0).runsToFin
    ∧ (wAt 0).setPos ((wAt 0).reg spReg - 1).toNat ((wAt 0).sr.setWidth 16) = none := ⟨quiet_wAt _, .inl rfl, by decide⟩
theorem witness_UnmappedInterruptFrame_second : Quiet (wAt 1) ∧ (wAt 1).runsToFin
    ∧ ∃ r1, (wAt 1).setPos ((wAt 1).reg spReg - 1).toNat ((wAt 1).sr.setWidth 16) = some r1
      ∧ ((wAt 1).withMemory r1).setPos ((wAt 1).reg spReg - 2).toNat (wAt 1).pc = none :=
  ⟨quiet_wAt _, .inl rfl, _, rfl, by decide⟩

/-- `w` with RAM only at 0x7000 .. 0x7FFF: no vector table. -/
def wNoVectors : State := { w with modules := [⟨0x7000, 4⟩] }

theorem witness_UnmappedInterruptFrame_vector : Quiet wNoVectors ∧ wNoVectors.runsToFin
    ∧ ∃ r1 r2, wNoVectors.setPos (wNoVectors.reg spReg - 1).toNat (wNoVectors.sr.setWidth 16) = some r1
      ∧ (wNoVectors.withMemory r1).setPos (wNoVectors.reg spReg - 2).toNat wNoVectors.pc = some r2
      ∧ (wNoVectors.withMemory r2).getPos (0x20 : Byte).toNat = none :=
  ⟨⟨rfl, rfl, quiet_w.devices⟩, .inl rfl, _, _, rfl, rfl, by decide⟩
theorem witness_UnmappedInterruptFrame_return : Quiet w ∧ w.runsToFin ∧ w.getPos (w.reg spReg).toNat = none
    ∧ (wAt 0x7FFF).getPos ((wAt 0x7FFF).reg spReg).toNat = some (0, w.devices)
    ∧ { wAt 0x7FFF with devices := w.devices }.getPos ((wAt 0x7FFF).reg spReg + 1).toNat = none :=
  ⟨quiet_w, runs_w, by decide, by decide, by decide⟩

/-- `wInt` with the stack pointer at an address. -/
def wIntAt (sp : Word) : State := wInt.setReg spReg sp

theorem witness_UnmappedInterruptFrame_block_first : Quiet (wIntAt 0) ∧ (wIntAt 0).upc = intAddress ∧ (wIntAt 0).runsToFin
    ∧ (wIntAt 0).setPos ((wIntAt 0).reg spReg - 1).toNat ((wIntAt 0).sr.setWidth 16) = none :=
  ⟨⟨rfl, rfl, quiet_wInt.devices⟩, rfl, .inl rfl, by decide⟩
theorem witness_UnmappedInterruptFrame_block_second : Quiet (wIntAt 1) ∧ (wIntAt 1).upc = intAddress
    ∧ (wIntAt 1).runsToFin
    ∧ ∃ r1, (wIntAt 1).setPos ((wIntAt 1).reg spReg - 1).toNat ((wIntAt 1).sr.setWidth 16) = some r1
      ∧ nextInt r1.2 = some 0 ∧ r1.2[0]? = some (keyboard [0x41] true true)
      ∧ ((wIntAt 1).withMemory r1).setPos ((wIntAt 1).reg spReg - 2).toNat (wIntAt 1).pc = none :=
  ⟨⟨rfl, rfl, quiet_wInt.devices⟩, rfl, .inl rfl, _, rfl, by decide, rfl, by decide⟩

/-- `wInt` with RAM only at 0x7000 .. 0x7FFF: no vector table. -/
def wIntNoVectors : State := { wInt with modules := [⟨0x7000, 4⟩] }

theorem witness_UnmappedInterruptFrame_block_vector : Quiet wIntNoVectors ∧ wIntNoVectors.upc = intAddress
    ∧ wIntNoVectors.runsToFin
    ∧ wIntNoVectors.inModule (wIntNoVectors.reg spReg - 1).toNat = true
    ∧ wIntNoVectors.inModule (wIntNoVectors.reg spReg - 2).toNat = true ∧ nextInt wIntNoVectors.devices = some 0
    ∧ wIntNoVectors.devices[0]? = some (keyboard [0x41] true true)
    ∧ wIntNoVectors.getPos (bytes 0 (keyboard [0x41] true true).vector).toNat = none :=
  ⟨⟨rfl, rfl, quiet_wInt.devices⟩, rfl, .inl rfl, by decide, by decide, by decide, rfl, by decide⟩
theorem witness_JumpResult : displacementFits (-128) ∧ displacementFits 127 ∧ Quiet w ∧ w.runsToFin :=
  ⟨by decide, by decide, quiet_w, runs_w⟩
theorem witness_CallResult : Quiet w ∧ w.runsToFin ∧ displacementFits (-128)
    ∧ w.setPos (w.reg spReg - 1).toNat w.pc = some ([(0x0100, 0x0940), (0x7FFF, 0x0100)], w.devices) :=
  ⟨quiet_w, runs_w, by decide, by decide⟩
theorem witness_ReturnResult : Quiet (wAt 0x7FFF) ∧ (wAt 0x7FFF).runsToFin
    ∧ (wAt 0x7FFF).getPos ((wAt 0x7FFF).reg spReg).toNat = some (0, w.devices) := witness_PopResult
theorem witness_ConditionalBranchResult : displacementFits (-128) ∧ Quiet w ∧ w.runsToFin ∧ srCf w.sr = true
    ∧ srZf w.sr = false :=
  ⟨by decide, quiet_w, runs_w, rfl, rfl⟩
theorem witness_OtherRegistersUnchanged : Quiet w ∧ w.runsToFin ∧ (∃ t, exec (.push 2) w = .next t)
    ∧ (2 : Reg) ∉ (Instr.push 2).mayWrite := ⟨quiet_w, runs_w, next_of_gives (by decide), by decide⟩
theorem witness_StatusRegisterFrame : Quiet w ∧ w.runsToFin ∧ (∃ t, exec (.int 0x20) w = .next t)
    ∧ (∃ t, exec (.add 1 2 3) w = .next t) ∧ ∃ t, exec (.mov 1 2) w = .next t :=
  ⟨quiet_w, runs_w, next_of_gives (by decide), next_of_gives (by decide), next_of_gives (by decide)⟩
theorem witness_MemoryUntouchedWithoutAccess : Quiet w ∧ w.runsToFin ∧ (∃ t, exec (.inc 2) w = .next t)
    ∧ (Instr.inc 2).accessesMemory = false := ⟨quiet_w, runs_w, next_of_gives (by decide), rfl⟩
theorem witness_StoreChangesOneWord : Quiet w ∧ w.runsToFin ∧ w.cells.wf w.cfg.memFill = true
    ∧ (Instr.push 7).storeAddress w = some 0x7FFF ∧ (Instr.push 7).storedWord w = some 0x7FFF
    ∧ (∃ t, exec (.push 7) w = .next t) ∧ w.inModule (0x7FFF : Word).toNat = true :=
  ⟨quiet_w, runs_w, by decide, by decide, by decide, next_of_gives (by decide), by decide⟩
theorem witness_SoftwareInterruptStoresTwoWords : Quiet w ∧ w.runsToFin ∧ w.cells.wf w.cfg.memFill = true
    ∧ (∃ t, exec (.int 0x20) w = .next t) ∧ w.inModule (w.reg spReg - 1).toNat = true
    ∧ w.inModule (w.reg spReg - 2).toNat = true :=
  ⟨quiet_w, runs_w, by decide, next_of_gives (by decide), by decide, by decide⟩
theorem witness_InterruptBlockResult : Quiet wInt ∧ wInt.upc = intAddress ∧ wInt.runsToFin
    ∧ wInt.inModule (wInt.reg spReg - 1).toNat = true ∧ wInt.inModule (wInt.reg spReg - 2).toNat = true
    ∧ wInt.inModule (bytes 0 0x10).toNat = true ∧ nextInt wInt.devices = some 0
    ∧ wInt.devices[0]? = some (keyboard [0x41] true true) :=
  ⟨quiet_wInt, rfl, .inl rfl, by decide, by decide, by decide, by decide, rfl⟩
theorem witness_InterruptBlockWithoutDevice : Quiet (interrupted []) ∧ (interrupted []).upc = intAddress
    ∧ (interrupted []).runsToFin ∧ ∃ r, (interrupted []).setPos ((interrupted []).reg spReg - 1).toNat
      ((interrupted []).sr.setWidth 16) = some r ∧ nextInt r.2 = none :=
  ⟨⟨rfl, rfl, by decide⟩, rfl, .inl rfl, _, rfl, by decide⟩

/-- The machine as a handler may leave it after `wInt`'s interrupt: R1, the flags, PC and a word of memory are others, the frame stands. -/
def handled : State :=
  poke 0x0500 0xCAFE { (stateOf (step wInt)).setReg 1 0x1111 with pc := 0x0205, sr := 0b01000 }

theorem witness_InterruptThenReturnRestores : Quiet wInt ∧ wInt.upc = intAddress ∧ wInt.runsToFin
    ∧ wInt.cells.wf wInt.cfg.memFill = true
    ∧ wInt.inModule (wInt.reg spReg - 1).toNat = true ∧ wInt.inModule (wInt.reg spReg - 2).toNat = true
    ∧ step wInt = .next (stateOf (step wInt)) ∧ Quiet handled ∧ handled.runsToFin
    ∧ handled.reg spReg = (stateOf (step wInt)).reg spReg
    ∧ handled.inModule (wInt.reg spReg - 1).toNat = true ∧ handled.inModule (wInt.reg spReg - 2).toNat = true
    ∧ handled.cells.read handled.cfg.memFill (wInt.reg spReg - 1).toNat
      = (stateOf (step wInt)).cells.read (stateOf (step wInt)).cfg.memFill (wInt.reg spReg - 1).toNat
    ∧ handled.cells.read handled.cfg.memFill (wInt.reg spReg - 2).toNat
      = (stateOf (step wInt)).cells.read (stateOf (step wInt)).cfg.memFill (wInt.reg spReg - 2).toNat :=
  ⟨quiet_wInt, rfl, .inl rfl, by decide, by decide, by decide, eq_next_stateOf (by decide),
    ⟨by decide, by decide, by decide⟩, .inl (by decide), by decide, by decide, by decide, by decide, by decide⟩
theorem witness_BestPendingDeviceIsServed : [keyboard [] true true, lights true][1]? = some (lights true)
    ∧ (lights true).requesting = true ∧ nextInt [keyboard [] true true, lights true] = some 1 := by decide
theorem witness_ValidatorMonotone : [Signal.regIb 1].Sublist [.regIb 1, .ibMdr] ∧ validSet .read [.regIb 1, .ibMdr] = true
    ∧ [Signal.regIb 1, .ibMdr].Perm [.ibMdr, .regIb 1] := ⟨.cons_cons _ (.cons _ .slnil), by decide, .swap _ _ _⟩
theorem witness_OrderIsCanonical : [Signal.ibReg 2, .regIb 1].Perm [.regIb 1, .ibReg 2] := .swap _ _ _
theorem witness_KeyboardStatusRead : (keyboard [0x41] true false).unit = .keyboard [0x41] true := rfl
theorem witness_DeviceRegisterWrites : (keyboard [0x41] true false).unit = .keyboard [0x41] true
    ∧ (lights true).unit = .lights 0xA5A5 0
    ∧ { lights true with unit := .screen [1, 2] true }.unit = .screen [1, 2] true ∧ 1 < [(1 : Word), 2].length :=
  ⟨rfl, rfl, rfl, by decide⟩
theorem witness_KeyboardDataLoad : Quiet w ∧ w.runsToFin ∧ w.inModule (w.reg 6).toNat = false
    ∧ w.devices[0]? = some (keyboard [0x41] true false) ∧ (w.reg 6).toNat = (keyboard [0x41] true false).base
    ∧ 0 < (keyboard [0x41] true false).size ∧ (keyboard [0x41] true false).unit = .keyboard (0x41 :: []) true
    ∧ (∀ j e, j < 0 → w.devices[j]? = some e → e.covers (keyboard [0x41] true false).base = false) :=
  ⟨quiet_w, runs_w, by decide, by decide, by decide, by decide, rfl, fun _ _ h => absurd h (Nat.not_lt_zero _)⟩

/-- `w` with room for one key only. -/
def wFull : State := { w with cfg := { w.cfg with kbdCapacity := 1 } }

theorem witness_KeyEventRequestsInterrupt : w.devices[0]? = some (keyboard [0x41] true false)
    ∧ (keyboard [0x41] true false).name = "kbd" ∧ (∀ j e, j < 0 → w.devices[j]? = some e → e.name ≠ "kbd")
    ∧ (keyboard [0x41] true false).unit = .keyboard [0x41] true ∧ [(0x41 : Word)].length < w.cfg.kbdCapacity
    ∧ wFull.devices[0]? = some (keyboard [0x41] true false) ∧ wFull.cfg.kbdCapacity ≤ [(0x41 : Word)].length :=
  ⟨by decide, rfl, fun _ _ h => absurd h (Nat.not_lt_zero _), rfl, by decide, by decide, by decide⟩

/-- The invariant holds of a machine with a module, two devices and a word in memory. -/
theorem inv_w : Inv w where
  memory := by decide
  mapped := by decide
  modules := by
    intro m hm
    obtain rfl := List.mem_singleton.mp (show m ∈ [(⟨0, 32⟩ : Module)] from hm)
    exact ⟨by decide, by decide, by decide⟩
  devices := by
    intro d hd
    have hd : d ∈ [keyboard [0x41] true false, lights true] := hd
    simp only [List.mem_cons, List.not_mem_nil, or_false] at hd
    obtain rfl | rfl := hd <;> exact ⟨by decide, by decide, by decide⟩
  modulesApart := by decide
  devicesApart := by decide
  apart := by decide
  names := by decide
  manual := by decide

theorem witness_InvariantKeptByStep : Inv w ∧ ∃ t, step w = .next t := ⟨inv_w, next_of_gives (by decide)⟩
theorem witness_InvariantKeptByCommands : Inv w ∧ (∀ z, Command.restore w = .restore z → Inv { z with cfg := w.cfg }) :=
  ⟨inv_w, fun _ h => Command.restore.inj h ▸ inv_w⟩

end Sys2Proof.Tests
end

section
/-! PROOFS. A step is its stored pulses (44_control_unit.md R282, R298): what a pulse leaves of the sequencer, the programs as
they stand in the store, and the run of a stored program as pulses up to its `fin`. -/

namespace Sys2Proof.Machine

/-! ### Composition -/

@[simp] theorem andThen_pure (r : Result) : andThen r .next = r := by
  cases r <;> rfl

theorem andThen_assoc (r : Result) (f g : State → Result) :
    andThen (andThen r f) g = andThen r fun t => andThen (f t) g := by
  cases r <;> rfl

/-- Two continuations that agree on the state a result carries make the same composition. -/
theorem andThen_congr {r : Result} {f g : State → Result} (h : ∀ t, r = .next t → f t = g t) :
    andThen r f = andThen r g := by
  cases r with
  | next t => exact h t rfl
  | fault e => rfl
  | refused e => rfl

/-! ### What a pulse leaves of the sequencer -/

/-- The mode, `upc` and the current instruction are those of before: all that says which stored step a pulse runs (R286). -/
structure KeepsControl (s t : State) : Prop where
  mode : t.mode = s.mode
  upc : t.upc = s.upc
  cur : t.cur = s.cur

/-- Besides, IR and SR, which choose where a fetched instruction is dispatched, are those of before (R290). -/
structure KeepsDispatch (s t : State) : Prop extends KeepsControl s t where
  ir : t.ir = s.ir
  sr : t.sr = s.sr

theorem KeepsControl.trans {s t u : State} (h : KeepsControl s t) (k : KeepsControl t u) : KeepsControl s u :=
  ⟨k.mode.trans h.mode, k.upc.trans h.upc, k.cur.trans h.cur⟩

theorem KeepsDispatch.trans {s t u : State} (h : KeepsDispatch s t) (k : KeepsDispatch t u) : KeepsDispatch s u :=
  ⟨h.toKeepsControl.trans k.toKeepsControl, k.ir.trans h.ir, k.sr.trans h.sr⟩

theorem KeepsControl.runsToFin {s t : State} (h : KeepsControl s t) (hm : s.runsToFin) : t.runsToFin := by
  unfold State.runsToFin
  rw [h.mode]
  exact hm

theorem arm_keepsControl {m : MemMode} {s t : State} (h : arm m s = .next t) : KeepsControl s t := by
  unfold arm at h
  split at h <;> cases h
  exact ⟨rfl, rfl, rfl⟩

theorem acknowledge_keepsControl {s t : State} (h : acknowledge s = .next t) : KeepsControl s t := by
  unfold acknowledge at h
  split at h <;> cases h
  exact ⟨rfl, rfl, rfl⟩

/-- No signal touches the sequencer: it moves only after the step's signals (R283). -/
theorem execSignal_keepsControl {g : Signal} {s t : State} (h : execSignal g s = .next t) : KeepsControl s t := by
  cases g with
  | read => exact arm_keepsControl h
  | write => exact arm_keepsControl h
  | inta => exact acknowledge_keepsControl h
  | _ => cases h; exact ⟨rfl, rfl, rfl⟩

theorem execToken_keepsControl {field : Placeholder → Option Reg} {k : Token} {s t : State}
    (h : execToken field k s = .next t) : KeepsControl s t := by
  unfold execToken at h
  split at h
  · exact execSignal_keepsControl h
  · cases h

theorem execTokens_keepsControl {field : Placeholder → Option Reg} {S : MicroStep} {s t : State}
    (h : execTokens field S s = .next t) : KeepsControl s t := by
  induction S generalizing s with
  | nil => cases h; exact ⟨rfl, rfl, rfl⟩
  | cons k S ih =>
    obtain ⟨u, hu, ht⟩ := andThen_eq_next h
    exact (execToken_keepsControl hu).trans (ih ht)

theorem memTick_keepsDispatch {s t : State} (h : memTick s = .next t) : KeepsDispatch s t := by
  unfold memTick at h
  repeat' split at h
  all_goals cases h
  all_goals exact ⟨⟨rfl, rfl, rfl⟩, rfl, rfl⟩

theorem deviceTick_keepsDispatch (s : State) (k : Nat) : KeepsDispatch s (deviceTick s k) := by
  obtain h | ⟨d, -, ⟨-, h⟩ | ⟨-, h⟩⟩ := deviceTick_spec s k <;> rw [h] <;> exact ⟨⟨rfl, rfl, rfl⟩, rfl, rfl⟩

theorem ioTick_keepsDispatch (s : State) : KeepsDispatch s (ioTick s) := by
  have hfold : ∀ (l : List Nat) (u : State), KeepsDispatch u (l.foldl deviceTick u) := by
    intro l
    induction l with
    | nil => exact fun u => ⟨⟨rfl, rfl, rfl⟩, rfl, rfl⟩
    | cons k l ih => exact fun u => (deviceTick_keepsDispatch u k).trans (ih _)
  exact hfold _ s

/-- A pulse that goes on: the step's signals keep the sequencer, the sequencing moves it, the ticks and the stop test keep what
the sequencing left (R282, R283). -/
theorem pulseWith_cases {field : Placeholder → Option Reg} {S : MicroStep} {s t : State}
    (h : pulseWith field S s = .next t) :
    ∃ u v, KeepsControl s u ∧ sequenceStep S u = .next v ∧ KeepsDispatch v t := by
  obtain ⟨u, hu, h⟩ := andThen_eq_next h
  obtain ⟨v, hv, h⟩ := andThen_eq_next h
  obtain ⟨x, hx, h⟩ := andThen_eq_next h
  cases h
  have hclear : KeepsControl s s.clearCarry := ⟨rfl, rfl, rfl⟩
  have hstop : KeepsDispatch (ioTick x) (ioTick x).stopTest := ⟨⟨rfl, rfl, rfl⟩, rfl, rfl⟩
  exact ⟨u, v, hclear.trans (execTokens_keepsControl hu), hv,
    ((memTick_keepsDispatch hx).trans (ioTick_keepsDispatch x)).trans hstop⟩

/-- After a step with neither `fin` nor `ib-ir` the sequencer stands at the next address, with all else kept (R289). -/
theorem pulseWith_advances {field : Placeholder → Option Reg} {S : MicroStep} {s t : State} (hm : s.runsToFin)
    (hf : S.any Token.isFin = false) (hi : S.any Token.isIbIr = false) (h : pulseWith field S s = .next t) :
    t.mode = s.mode ∧ t.upc = s.upc + 1 ∧ t.cur = s.cur := by
  obtain ⟨u, v, hu, hv, ht⟩ := pulseWith_cases h
  rw [sequenceStep_plain (hu.runsToFin hm) hf hi] at hv
  cases hv
  exact ⟨ht.mode.trans hu.mode, by rw [ht.upc, State.advance_upc, hu.upc], ht.cur.trans hu.cur⟩

/-- The sequencer stands at the first step of the instruction in IR, which is the current one (R290). -/
structure Dispatched (i : Instr) (t : State) : Prop where
  mode : t.runsToFin
  decoded : decodeInstruction t.ir = .ok i
  cur : t.cur = some t.ir
  upc : t.upc = firstAddress (dispatchOpcode i t.sr)

theorem decodeAndDispatch_dispatched {s t : State} (hm : s.runsToFin) (h : decodeAndDispatch s = .next t) :
    ∃ i, Dispatched i t := by
  unfold decodeAndDispatch at h
  split at h <;> cases h
  next i hd => exact ⟨i, hm, hd, rfl, rfl⟩

theorem Dispatched.of_keepsDispatch {i : Instr} {s t : State} (h : Dispatched i s) (k : KeepsDispatch s t) :
    Dispatched i t where
  mode := k.runsToFin h.mode
  decoded := by rw [k.ir, h.decoded]
  cur := by rw [k.cur, k.ir, h.cur]
  upc := by rw [k.upc, k.sr, h.upc]

/-- A step with `ib-ir` and no `fin` decodes and dispatches (R290). -/
theorem pulseWith_dispatches {field : Placeholder → Option Reg} {S : MicroStep} {s t : State} (hm : s.runsToFin)
    (hf : S.any Token.isFin = false) (hi : S.any Token.isIbIr = true) (h : pulseWith field S s = .next t) :
    ∃ i, Dispatched i t := by
  obtain ⟨u, v, hu, hv, ht⟩ := pulseWith_cases h
  have hmu := hu.runsToFin hm
  simp only [sequenceStep, State.runsToFin_ne_manual hmu, hf, hi, if_true, if_false, Bool.false_eq_true] at hv
  obtain ⟨i, hd⟩ := decodeAndDispatch_dispatched (s := { u with stepCount := u.stepCount + 1 }) hmu hv
  exact ⟨i, hd.of_keepsDispatch ht⟩

/-! ### Pulses from the store -/

/-- In the modes that run to `fin`, a pulse runs the stored step at `upc` (R286). -/
theorem pulse_eq_pulseWith {s : State} (hm : s.runsToFin) : pulse s = pulseWith s.curField (storedStep s.upc) s := by
  have ht : s.stepTokens = some (storedStep s.upc) := by
    rcases hm with h | h <;> simp [State.stepTokens, h]
  simp [pulse, ht]

theorem runToFin_succ_of_fin {n : Nat} {s : State} (hf : (storedStep s.upc).any Token.isFin = true) :
    runToFin (n + 1) s = pulse s := by
  simp [runToFin, hf]

theorem runToFin_succ_of_not_fin {n : Nat} {s : State} (hf : (storedStep s.upc).any Token.isFin = false) :
    runToFin (n + 1) s = andThen (pulse s) (runToFin n) := by
  simp [runToFin, hf]

/-- A step's effect depends on the placeholders' fields only through the signals its tokens resolve to (R286). -/
theorem execTokens_congr {f g : Placeholder → Option Reg} {S : MicroStep} (h : ∀ k ∈ S, k.resolve f = k.resolve g) :
    execTokens f S = execTokens g S := by
  induction S with
  | nil => rfl
  | cons k S ih =>
    funext s
    have hk := h k List.mem_cons_self
    simp only [execTokens, execToken, hk, ih fun j hj => h j (List.mem_cons_of_mem _ hj)]

theorem pulseWith_congr {f g : Placeholder → Option Reg} {S : MicroStep} (h : ∀ k ∈ S, k.resolve f = k.resolve g) :
    pulseWith f S = pulseWith g S := by
  funext s
  simp only [pulseWith, execTokens_congr h]

/-- A program stands in the store from address `a` on, with `fin` in its last step only and no `ib-ir` before it (R250, R260). -/
def storedAt : Fin 106 → Microprogram → Bool
  | _, [] => false
  | a, [S] => storedStep a == S && S.any Token.isFin
  | a, S :: T :: rest =>
    storedStep a == S && !S.any Token.isFin && !S.any Token.isIbIr && storedAt (a + 1) (T :: rest)

theorem storedStep_of_storedAt {a : Fin 106} {S : MicroStep} {p : Microprogram} (h : storedAt a (S :: p) = true) :
    storedStep a = S := by
  cases p with
  | nil =>
    simp only [storedAt, Bool.and_eq_true, beq_iff_eq] at h
    exact h.1
  | cons T rest =>
    simp only [storedAt, Bool.and_eq_true, beq_iff_eq] at h
    obtain ⟨⟨⟨hs, -⟩, -⟩, -⟩ := h
    exact hs

/-- A stored program's own steps are the pulses from its first address up to `fin`, whatever the memory and the devices are in the
middle of. -/
theorem runSteps_eq_runToFin {field : Placeholder → Option Reg} {p : Microprogram} {n : Nat} {s : State}
    (hm : s.runsToFin) (hp : storedAt s.upc p = true) (hn : p.length ≤ n)
    (hres : ∀ S ∈ p, ∀ k ∈ S, k.resolve s.curField = k.resolve field) :
    runSteps field p s = runToFin n s := by
  induction p generalizing n s with
  | nil => simp [storedAt] at hp
  | cons S p ih =>
    obtain ⟨n, rfl⟩ : ∃ m, n = m + 1 := Nat.exists_eq_add_one.mpr (Nat.lt_of_lt_of_le (Nat.succ_pos _) hn)
    have hstored : storedStep s.upc = S := storedStep_of_storedAt hp
    have hpulse : pulse s = pulseWith field S s := by
      rw [pulse_eq_pulseWith hm, hstored, pulseWith_congr (hres S List.mem_cons_self)]
    cases p with
    | nil =>
      obtain ⟨-, hf⟩ := (Bool.and_eq_true _ _).mp hp
      rw [runToFin_succ_of_fin (by rw [hstored, hf]), hpulse]
      exact andThen_pure _
    | cons T rest =>
      simp only [storedAt, Bool.and_eq_true, Bool.not_eq_true'] at hp
      obtain ⟨⟨⟨-, hf⟩, hi⟩, hrest⟩ := hp
      rw [runToFin_succ_of_not_fin (by rw [hstored, hf]), hpulse]
      refine andThen_congr fun t ht => ?_
      obtain ⟨hmode, hupc, hcur⟩ := pulseWith_advances hm hf hi ht
      have hfield : t.curField = s.curField := by funext q; simp only [State.curField, hcur]
      refine ih ?_ (hupc ▸ hrest) (Nat.le_of_succ_le_succ hn) ?_
      · simpa only [State.runsToFin, hmode] using hm
      · exact fun U hU k hk => hfield ▸ hres U (List.mem_cons_of_mem _ hU) k hk

/-! ### The programs in the store -/

/-- The program registered for an opcode (R250); no opcode without one is ever dispatched to (`dispatchOpcode_registered`). -/
def programOf (op : BitVec 5) : Microprogram := (registered.lookup op).getD []

/-- Every registered program stands in the store at its opcode's first address (R251, R257). -/
theorem storedAt_programOf :
    ∀ op ∈ registered.map Prod.fst, storedAt (firstAddress op) (programOf op) = true :=
  List.all_eq_true.mp (by decide)

/-- INT's program is the longest (R500). -/
theorem length_programOf : ∀ op ∈ registered.map Prod.fst, (programOf op).length ≤ 11 := by decide

theorem opcode_registered (i : Instr) : i.opcode ∈ registered.map Prod.fst := by
  cases i <;> simp [Instr.opcode, registered]

theorem dispatchOpcode_registered (i : Instr) (sr : BitVec 5) : dispatchOpcode i sr ∈ registered.map Prod.fst := by
  unfold dispatchOpcode
  split
  · split
    · exact opcode_registered i
    · decide
  · exact opcode_registered i

theorem storedAt_interruptBlock : storedAt intAddress interruptBlock = true := by decide

/-- The interrupt-service block names no placeholder (R256). -/
theorem resolve_interruptBlock (f g : Placeholder → Option Reg) :
    ∀ S ∈ interruptBlock, ∀ k ∈ S, k.resolve f = k.resolve g := by
  simp [interruptBlock, pushAddress, storeSr, Token.resolve]

/-- A conditional branch runs the program that its opcode is dispatched to: the relative jump or BRFALSE (R290, R366, R375). -/
theorem conditionalBranch_eq_runProgram {i : Instr} {k : Condition} (hc : i.condition = some k)
    (ho : i.opcode = 0b11110) (s : State) :
    conditionalBranch i k s =
      runProgram i (firstAddress (dispatchOpcode i s.sr)) (programOf (dispatchOpcode i s.sr)) s := by
  cases h : condTrue k s.sr with
  | true =>
    have hd : dispatchOpcode i s.sr = 0b11110 := by simp [dispatchOpcode, hc, h, ho]
    simp only [conditionalBranch, h, hd, if_true]
    rfl
  | false =>
    have hd : dispatchOpcode i s.sr = brFalseOpcode := by simp [dispatchOpcode, hc, h]
    simp only [conditionalBranch, h, hd, Bool.false_eq_true, if_false]
    rfl

/-- The meaning of an instruction is the registered program of the opcode it is dispatched to (R259, R290). -/
theorem exec_eq_runProgram (i : Instr) (s : State) :
    exec i s = runProgram i (firstAddress (dispatchOpcode i s.sr)) (programOf (dispatchOpcode i s.sr)) s := by
  cases i with
  | brc _ | brnc _ | bro _ | brno _ | brz _ | brnz _ | brs _ | brns _ => exact conditionalBranch_eq_runProgram rfl rfl s
  | _ => rfl

/-! ### The state a fetch leaves -/

/-- Every conditional branch has its displacement for operand byte (R117). -/
theorem operandByte_branchOfCond (c : BitVec 3) (d : Int) : (branchOfCond c d).operandByte = some (dispBits d) := by
  unfold branchOfCond
  split <;> rfl

/-- The operand byte of a catalogue instruction is the low byte of its word (R112, R115, R116). -/
theorem operandByte_of_catalogue (w : Word) : ∀ e ∈ catalogue, ∀ k ∈ (e.2 w).operandByte, k = lowByte w := by
  have hdisp : dispBits (fieldDisp w) = lowByte w := dispBits_toInt _
  have himm : fieldImm w = lowByte w := rfl
  simp only [catalogue, List.forall_mem_cons, operandByte_branchOfCond]
  simp [Instr.operandByte, hdisp, himm]

/-- A decoded instruction is a catalogue entry's reading of the word (R118). -/
theorem decodeInstruction_mem_catalogue {w : Word} {i : Instr} (h : decodeInstruction w = .ok i) :
    ∃ e ∈ catalogue, e.2 w = i := by
  unfold decodeInstruction at h
  split at h
  · cases h
  next e he =>
    have hmem : e ∈ catalogue.filter fun e => e.1 == opcodeOf w := he ▸ List.mem_singleton_self e
    exact ⟨e, List.mem_of_mem_filter hmem, Except.ok.inj h⟩
  · cases h

/-- Where the fetch has dispatched the instruction, entering its program changes nothing (log 5). -/
theorem Dispatched.enter_eq {i : Instr} {t : State} (h : Dispatched i t) :
    t.enter i (firstAddress (dispatchOpcode i t.sr)) = t := by
  obtain ⟨e, he, hi⟩ := decodeInstruction_mem_catalogue h.decoded
  have hbyte : ∀ k ∈ i.operandByte, k = lowByte t.ir := hi ▸ operandByte_of_catalogue t.ir e he
  unfold State.enter
  rw [← h.upc]
  split
  next k hk => rw [hbyte k hk, bytes_highByte_lowByte]
  · rfl

theorem Dispatched.curField_eq {i : Instr} {t : State} (h : Dispatched i t) : t.curField = i.field := by
  funext p
  simp only [State.curField, h.cur, h.decoded]

/-- What the fetch dispatched is the pulses up to the instruction's `fin`. -/
theorem Dispatched.execDecoded_eq {i : Instr} {t : State} (h : Dispatched i t) : execDecoded t = runToFin 11 t := by
  have hreg := dispatchOpcode_registered i t.sr
  calc execDecoded t = exec i t := by simp only [execDecoded, h.decoded]
    _ = runSteps i.field (programOf (dispatchOpcode i t.sr)) t := by
      rw [exec_eq_runProgram, runProgram, h.enter_eq]
    _ = runToFin 11 t :=
      runSteps_eq_runToFin h.mode (h.upc ▸ storedAt_programOf _ hreg) (length_programOf _ hreg)
        fun _ _ _ _ => by rw [h.curField_eq]

/-- One pulse of the first two fetch steps (R252, R253). -/
theorem pulse_advances {s t : State} (hm : s.runsToFin) (hf : (storedStep s.upc).any Token.isFin = false)
    (hi : (storedStep s.upc).any Token.isIbIr = false) (h : pulse s = .next t) : t.runsToFin ∧ t.upc = s.upc + 1 := by
  rw [pulse_eq_pulseWith hm] at h
  obtain ⟨hmode, hupc, -⟩ := pulseWith_advances hm hf hi h
  exact ⟨by simpa only [State.runsToFin, hmode] using hm, hupc⟩

/-- From address 0, the fetch and what it dispatched are the pulses up to the instruction's `fin` (R252 to R254, R298). -/
theorem fetch_execDecoded_eq_runToFin {s : State} (hm : s.runsToFin) (h0 : s.upc = 0) :
    andThen (fetch s) execDecoded = runToFin maxPulses s := by
  have hf0 : (storedStep 0).any Token.isFin = false := by decide
  have hf1 : (storedStep 1).any Token.isFin = false := by decide
  have hf2 : (storedStep 2).any Token.isFin = false := by decide
  have hi0 : (storedStep 0).any Token.isIbIr = false := by decide
  have hi1 : (storedStep 1).any Token.isIbIr = false := by decide
  have hi2 : (storedStep 2).any Token.isIbIr = true := by decide
  rw [maxPulses, runToFin_succ_of_not_fin (h0 ▸ hf0), fetch, andThen_assoc]
  refine andThen_congr fun t ht => ?_
  obtain ⟨hmt, h1⟩ := pulse_advances hm (h0 ▸ hf0) (h0 ▸ hi0) ht
  replace h1 : t.upc = 1 := by rw [h1, h0]; rfl
  rw [runToFin_succ_of_not_fin (h1 ▸ hf1), andThen_assoc]
  refine andThen_congr fun u hu => ?_
  obtain ⟨hmu, h2⟩ := pulse_advances hmt (h1 ▸ hf1) (h1 ▸ hi1) hu
  replace h2 : u.upc = 2 := by rw [h2, h1]; rfl
  rw [runToFin_succ_of_not_fin (h2 ▸ hf2)]
  refine andThen_congr fun v hv => ?_
  rw [pulse_eq_pulseWith hmu] at hv
  obtain ⟨i, hd⟩ := pulseWith_dispatches hmu (h2 ▸ hf2) (h2 ▸ hi2) hv
  exact hd.execDecoded_eq

/-- From the interrupt-service block's first address, taking the interrupt is the pulses up to the block's `fin` (R256, R298). -/
theorem takeInterrupt_eq_runToFin {s : State} (hm : s.runsToFin) (h : s.upc = intAddress) :
    takeInterrupt s = runToFin maxPulses s := by
  have hs : ({ s with upc := intAddress } : State) = s := by rw [← h]
  rw [takeInterrupt, hs]
  exact runSteps_eq_runToFin hm (h ▸ storedAt_interruptBlock) (by decide) (resolve_interruptBlock _ _)

/-- In the modes that run to `fin`, a step is the fetch with what it dispatched, the interrupt-service block, or the rest of a
microprogram in flight (R280, R298). -/
theorem step_of_runsToFin {s : State} (hm : s.runsToFin) :
    step s = if s.upc = 0 then andThen (fetch s.start) execDecoded
      else if s.upc = intAddress then takeInterrupt s.start else runToFin maxPulses s.start := by
  rcases hm with h | h <;> simp only [step, h]

/-- Settles O10: the fetch and the dispatched program, and the interrupt-service block, are stored pulses; elsewhere a step is
pulses by its definition. -/
theorem stepIsItsPulses : Obligations.StepIsItsPulses := by
  intro s hm
  have hstart : s.start.runsToFin := hm
  rw [step_of_runsToFin hm]
  split
  next h0 => exact fetch_execDecoded_eq_runToFin hstart h0
  next =>
    split
    next hint => exact takeInterrupt_eq_runToFin hstart hint
    next => rfl

end Sys2Proof.Machine
end

section
/-! PROOFS. What each part of a pulse can do, said once as an inversion lemma (41_signals.md R192, 44_control_unit.md R283, R289), and
which general registers a run of microsteps can write (R180 to R182), with the register frame of every instruction (R22). -/

namespace Sys2Proof.Machine

/-! ### What a part of a pulse that goes on has done -/

/-- Arming goes on only in an idle memory (R72, R73, R77). -/
theorem arm_eq_next {m : MemMode} {s t : State} (h : arm m s = .next t) :
    s.memMode = .idle ∧ t = { s with memMode := m, memCnt := 0 } := by
  unfold arm at h
  split at h <;> cases h
  next hidle => exact ⟨hidle, rfl⟩

/-- The acknowledge goes on only where a device requests, and changes that device's interrupt read (R192, R405). -/
theorem acknowledge_eq_next {s t : State} (h : acknowledge s = .next t) :
    ∃ k, nextInt s.devices = some k ∧ t = { s with devices := acknowledgeAt k s.devices } := by
  unfold acknowledge at h
  split at h <;> cases h
  next k hk => exact ⟨k, hk, rfl⟩

/-- The sequencing of a step that goes on: a manual step, an end of instruction, a dispatch or an advance (R283, R289). -/
theorem sequenceStep_eq_next {S : MicroStep} {s t : State} (h : sequenceStep S s = .next t) :
    (∃ c, t = { s with stepCount := c, manualSet := [] }) ∨ t = s.endInstruction
      ∨ (∃ c a, t = { s with stepCount := c, cur := some s.ir, upc := a }) ∨ t = s.advance := by
  unfold sequenceStep at h
  split at h
  · cases h; exact .inl ⟨_, rfl⟩
  split at h
  · cases h; exact .inr (.inl rfl)
  split at h
  · unfold decodeAndDispatch at h
    split at h <;> cases h
    exact .inr (.inr (.inl ⟨_, _, rfl⟩))
  · cases h; exact .inr (.inr (.inr rfl))

/-- The memory tick that goes on: none in progress, the counter alone, a read's transfer or a write's (R74, R76). -/
theorem memTick_eq_next {s t : State} (h : memTick s = .next t) :
    t = s ∨ t = { s with memCnt := 1 }
      ∨ (∃ w ds, s.getPos s.mar.toNat = some (w, ds) ∧ t = { s with mdr := w, devices := ds, memMode := .idle, memCnt := 0 })
      ∨ ∃ r, s.setPos s.mar.toNat s.mdr = some r ∧ t = { s.withMemory r with memMode := .idle, memCnt := 0 } := by
  unfold memTick at h
  split at h
  · cases h; exact .inl rfl
  · split at h
    · cases h; exact .inr (.inl rfl)
    · split at h <;> cases h
      next w ds hget => exact .inr (.inr (.inl ⟨w, ds, hget, rfl⟩))
  · split at h
    · cases h; exact .inr (.inl rfl)
    · split at h <;> cases h
      next r hset => exact .inr (.inr (.inr ⟨r, hset, rfl⟩))

/-- What the tick of every device keeps, the I/O tick keeps (R427). -/
theorem ioTick_induction {P : State → Prop} (htick : ∀ s k, P s → P (deviceTick s k)) {s : State} (h : P s) :
    P (ioTick s) := by
  have hfold : ∀ (l : List Nat) (u : State), P u → P (l.foldl deviceTick u) := by
    intro l
    induction l with
    | nil => exact fun _ hu => hu
    | cons k l ih => exact fun u hu => ih _ (htick u k hu)
  exact hfold _ s h

/-- What each signal of a step keeps, the step's tokens keep (R160, R287). -/
theorem execTokens_induction {P : State → Prop} {field : Placeholder → Option Reg} {S : MicroStep}
    (hsignal : ∀ k ∈ S, ∀ g, k.resolve field = some g → ∀ s t, execSignal g s = .next t → P s → P t)
    {s t : State} (h : execTokens field S s = .next t) (hs : P s) : P t := by
  induction S generalizing s with
  | nil => cases h; exact hs
  | cons k S ih =>
    obtain ⟨u, hu, h⟩ := andThen_eq_next h
    refine ih (fun j hj => hsignal j (List.mem_cons_of_mem _ hj)) h ?_
    unfold execToken at hu
    split at hu
    next g hg => exact hsignal k List.mem_cons_self g hg s u hu hs
    next => cases hu

/-- What the step's signals, the sequencing, the memory tick, every device's tick and the clock and carry bookkeeping each keep,
a pulse keeps (R282, R283). -/
theorem pulseWith_induction {P : State → Prop} {field : Placeholder → Option Reg} {S : MicroStep}
    (hsignal : ∀ k ∈ S, ∀ g, k.resolve field = some g → ∀ s t, execSignal g s = .next t → P s → P t)
    (hsequence : ∀ s t, sequenceStep S s = .next t → P s → P t)
    (hmemory : ∀ s t, memTick s = .next t → P s → P t)
    (hdevice : ∀ s k, P s → P (deviceTick s k))
    (hclear : ∀ s : State, P s → P s.clearCarry) (hstop : ∀ s : State, P s → P s.stopTest)
    {s t : State} (h : pulseWith field S s = .next t) (hs : P s) : P t := by
  obtain ⟨u, hu, h⟩ := andThen_eq_next h
  obtain ⟨v, hv, h⟩ := andThen_eq_next h
  obtain ⟨x, hx, h⟩ := andThen_eq_next h
  cases h
  have htokens : P u := execTokens_induction hsignal hu (hclear s hs)
  exact hstop _ (ioTick_induction hdevice (hmemory v x hx (hsequence u v hv htokens)))

/-! ### The general registers a microprogram writes -/

/-- The general register that a signal writes, whole or one byte of it (R180 to R182). -/
def Signal.destReg : Signal → Option Reg
  | .ibReg n | .ibhReg n | .iblReg n => some n
  | _ => none

/-- The general registers that a microprogram's tokens name as destinations, its placeholders replaced by the fields. -/
def writtenRegs (field : Placeholder → Option Reg) (p : Microprogram) : List Reg :=
  p.flatten.filterMap fun k => (k.resolve field).bind Signal.destReg

theorem mem_writtenRegs {field : Placeholder → Option Reg} {p : Microprogram} {n : Reg} {S : MicroStep} {k : Token} {g : Signal}
    (hS : S ∈ p) (hk : k ∈ S) (hg : k.resolve field = some g) (hn : g.destReg = some n) : n ∈ writtenRegs field p :=
  List.mem_filterMap.mpr ⟨k, List.mem_flatten.mpr ⟨S, hS, hk⟩, by simp [hg, hn]⟩

/-- Only the uploads into a general register write one, and each writes its own. -/
theorem execSignal_reg {g : Signal} {s t : State} {n : Reg} (h : execSignal g s = .next t) (hn : g.destReg ≠ some n) :
    t.reg n = s.reg n := by
  cases g with
  | ibReg m | ibhReg m | iblReg m => cases h; exact s.setReg_reg_ne _ fun e => hn (congrArg some e)
  | read | write => obtain ⟨-, rfl⟩ := arm_eq_next h; rfl
  | inta => obtain ⟨k, -, rfl⟩ := acknowledge_eq_next h; rfl
  | _ => cases h; rfl

theorem sequenceStep_regs {S : MicroStep} {s t : State} (h : sequenceStep S s = .next t) : t.regs = s.regs := by
  obtain ⟨c, rfl⟩ | rfl | ⟨c, a, rfl⟩ | rfl := sequenceStep_eq_next h <;> rfl

theorem memTick_regs {s t : State} (h : memTick s = .next t) : t.regs = s.regs := by
  obtain rfl | rfl | ⟨w, ds, -, rfl⟩ | ⟨r, -, rfl⟩ := memTick_eq_next h <;> rfl

theorem deviceTick_regs (s : State) (k : Nat) : (deviceTick s k).regs = s.regs := by
  obtain h | ⟨d, -, ⟨-, h⟩ | ⟨-, h⟩⟩ := deviceTick_spec s k <;> rw [h]

/-- A pulse keeps every general register that no signal of its step writes: sequencing and ticks write none. -/
theorem pulseWith_reg {field : Placeholder → Option Reg} {S : MicroStep} {s t : State} {n : Reg}
    (hn : ∀ k ∈ S, ∀ g, k.resolve field = some g → g.destReg ≠ some n) (h : pulseWith field S s = .next t) :
    t.reg n = s.reg n := by
  have of_regs : ∀ {u v : State}, v.regs = u.regs → u.reg n = s.reg n → v.reg n = s.reg n :=
    fun e hu => (congrArg (·[n.val]) e).trans hu
  exact pulseWith_induction (P := fun u => u.reg n = s.reg n)
    (hsignal := fun k hk g hg u v hv hu => (execSignal_reg hv (hn k hk g hg)).trans hu)
    (hsequence := fun u v hv => of_regs (sequenceStep_regs hv))
    (hmemory := fun u v hv => of_regs (memTick_regs hv))
    (hdevice := fun u k => of_regs (deviceTick_regs u k))
    (hclear := fun _ hu => hu) (hstop := fun _ hu => hu) h rfl

/-- A run of microsteps keeps every general register that none of them writes. -/
theorem runSteps_reg {field : Placeholder → Option Reg} {p : Microprogram} {s t : State} {n : Reg}
    (hn : n ∉ writtenRegs field p) (h : runSteps field p s = .next t) : t.reg n = s.reg n := by
  have hstep : ∀ S ∈ p, ∀ k ∈ S, ∀ g, k.resolve field = some g → g.destReg ≠ some n :=
    fun S hS k hk g hg hd => hn (mem_writtenRegs hS hk hg hd)
  clear hn
  induction p generalizing s with
  | nil => cases h; rfl
  | cons S p ih =>
    obtain ⟨u, hu, h⟩ := andThen_eq_next h
    exact (ih h fun T hT => hstep T (List.mem_cons_of_mem _ hT)).trans (pulseWith_reg (hstep S List.mem_cons_self) hu)

/-- An instruction runs the program of its own opcode or, a branch not taken, BRFALSE's (R290). -/
theorem dispatchOpcode_cases (i : Instr) (sr : BitVec 5) :
    dispatchOpcode i sr = i.opcode ∨ dispatchOpcode i sr = brFalseOpcode := by
  unfold dispatchOpcode
  split
  · split
    · exact .inl rfl
    · exact .inr rfl
  · exact .inl rfl

/-- An instruction's own program writes the destination that its rule names, and R7 in the stack sequences (R261, R322 to R379). -/
theorem writtenRegs_program (i : Instr) : writtenRegs i.field (programOf i.opcode) ⊆ i.mayWrite := by
  cases i with
  | neg rds => show [rds, rds] ⊆ [rds]; simp
  | pop rd => show [spReg, rd] ⊆ [rd, spReg]; simp
  | int k | iret => show [spReg, spReg] ⊆ [spReg]; simp
  | _ => exact List.Subset.refl _

/-- Settles O37: a register that the instruction's rule does not name is a destination of none of its microsteps. -/
theorem otherRegistersUnchanged : Obligations.OtherRegistersUnchanged := by
  intro i s t n _ _ h hn
  rw [exec_eq_runProgram] at h
  refine runSteps_reg (s := s.enter i _) ?_ h
  obtain hd | hd := dispatchOpcode_cases i s.sr <;> rw [hd]
  · exact fun hmem => hn (writtenRegs_program i hmem)
  · exact List.not_mem_nil

end Sys2Proof.Machine
end

section
/-! PROOFS. Reset (70_reset_and_hazards.md R470 to R478) and the invariant of R48: at creation, under every change of the state that
keeps it, along a step and under the host's commands. -/

namespace Sys2Proof.Machine

/-! ### Reset -/

/-- Settles O57: the reset command is accepted whether the clock runs or not, and the rest is the table as the model writes it. -/
theorem resetValues : Obligations.ResetValues :=
  fun _ => ⟨command_of_accepted rfl, command_of_accepted rfl, rfl, rfl, rfl, rfl, fun _ => rfl⟩

/-- Settles O58: at creation there are no cells, no modules and no devices, and the manual set is empty. -/
theorem invariantAtReset : Obligations.InvariantAtReset where
  memory := Memory.wf_reset
  mapped := List.forall_mem_nil _
  modules := List.forall_mem_nil _
  devices := List.forall_mem_nil _
  modulesApart := .nil
  devicesApart := .nil
  apart := List.forall_mem_nil _
  names := .nil
  manual := rfl

/-! ### Signal sets -/

theorem countSignals_perm {p : Signal → Bool} {S T : List Signal} (h : S.Perm T) : countSignals p S = countSignals p T :=
  (h.filter p).length_eq

/-- The validator's verdict does not depend on the order of the tokens (R241). -/
theorem validSet_perm {m : MemMode} {S T : List Signal} (h : S.Perm T) : validSet m S = validSet m T := by
  have hcount : ∀ p, countSignals p S = countSignals p T := fun _ => countSignals_perm h
  have hcontains : ∀ g, S.contains g = T.contains g := fun _ => h.contains_eq
  have hdup : noDuplicate S = noDuplicate T := by simp only [noDuplicate, h.nodup_iff]
  have hupload : oneUploadPerGroup S = oneUploadPerGroup T := by
    simp only [oneUploadPerGroup, hcount]
    exact h.all_eq
  simp only [validSet, hdup, hupload, oneDownload, intaWithoutRead, memoryNotBusy, srGroupRule, singleGroups, aluGroupRule,
    hcount, hcontains]

/-- A set accepted during an access is accepted in an idle memory (R235, R236, R243). -/
theorem validSet_idle {m : MemMode} {S : List Signal} (h : validSet m S = true) : validSet .idle S = true := by
  simp only [validSet, Bool.and_eq_true] at h ⊢
  obtain ⟨⟨⟨⟨⟨⟨⟨hdup, hdownload⟩, hupload⟩, hinta⟩, -⟩, hsr⟩, hsingle⟩, halu⟩ := h
  have hinta' : intaWithoutRead .idle S = true := by
    simp only [intaWithoutRead, Bool.or_eq_true, Bool.and_eq_true] at hinta ⊢
    exact hinta.imp id fun ⟨hread, _⟩ => ⟨hread, rfl⟩
  exact ⟨⟨⟨⟨⟨⟨⟨hdup, hdownload⟩, hupload⟩, hinta'⟩, rfl⟩, hsr⟩, hsingle⟩, halu⟩

theorem insertByIdx_perm (g : Signal) (S : List Signal) : (insertByIdx g S).Perm (g :: S) := by
  induction S with
  | nil => exact .refl _
  | cons h S ih =>
    unfold insertByIdx
    split
    · exact .refl _
    · exact (ih.cons h).trans (.swap g h S)

/-- An added token leaves a set that the validator accepts (R241). -/
theorem addSignal_valid {m : MemMode} {S T : List Signal} {g : Signal} (h : addSignal m S g = some T) :
    validSet m T = true := by
  unfold addSignal at h
  split at h <;> cases h
  next hv => rw [validSet_perm (insertByIdx_perm g S), hv]

/-- Tokens added one at a time leave an accepted set (R231, R241). -/
theorem addTokens_valid {m : MemMode} {ts : List String} {S T : List Signal} (hS : validSet .idle S = true)
    (h : addTokens m ts S = some T) : validSet .idle T = true := by
  induction ts generalizing S with
  | nil => cases h; exact hS
  | cons t ts ih =>
    unfold addTokens at h
    split at h
    · cases h
    · split at h
      · cases h
      next U hU => exact ih (validSet_idle (addSignal_valid hU)) h


/-! ### Devices -/

/-- What the registry and the memory map see of a device: its name and its address range (R420). -/
def Device.place (d : Device) : String × Nat × Nat := (d.name, d.base, d.size)

/-- Two places have no address in common: `Device.outside` of the devices at them (R421). -/
def placesApart (p q : String × Nat × Nat) : Prop := (!rangesOverlap p.2.1 p.2.2 q.2.1 q.2.2) = true

theorem placesApart_place {d e : Device} : placesApart d.place e.place ↔ d.outside e.base e.size = true := Iff.rfl

theorem unitOk_keyboard {cfg : Config} {d : Device} {queue : List Word} {ready : Bool} (hu : d.unit = .keyboard queue ready) :
    unitOk cfg d = true ↔ d.size = 2 ∧ queue.length ≤ cfg.kbdCapacity ∧ ready = !queue.isEmpty := by
  simp [unitOk, hu, and_assoc]

theorem unitOk_lights {cfg : Config} {d : Device} {switches lights : Word} (hu : d.unit = .lights switches lights) :
    unitOk cfg d = true ↔ d.size = 1 := by
  simp [unitOk, hu]

theorem unitOk_screen {cfg : Config} {d : Device} {cells : List Word} {power : Bool} (hu : d.unit = .screen cells power) :
    unitOk cfg d = true ↔ d.size = cfg.screenCells + 1 ∧ cells.length = cfg.screenCells ∧ d.intEnabled = false := by
  simp [unitOk, hu, and_assoc]

@[simp] theorem Device.read_place (d : Device) (off : Nat) : (d.read off).2.place = d.place := by
  obtain ⟨u, h⟩ := d.read_spec off; rw [h]; rfl

@[simp] theorem Device.write_place (d : Device) (off : Nat) (v : Word) : (d.write off v).place = d.place := by
  obtain ⟨u, e, h⟩ := d.write_spec off v; rw [h]; rfl

/-- A read changes at most the Keyboard's queue, whose `ready` it clears with the last code (R442). -/
theorem unitOk_read {cfg : Config} {d : Device} {off : Nat} (h : unitOk cfg d = true) : unitOk cfg (d.read off).2 = true := by
  unfold Device.read
  split
  next queue ready hu =>
    split
    · cases queue with
      | nil => exact h
      | cons k rest =>
        obtain ⟨hsize, hlen, hready⟩ := (unitOk_keyboard hu).mp h
        refine (unitOk_keyboard rfl).mpr ⟨hsize, Nat.le_of_succ_le hlen, ?_⟩
        cases rest <;> simp [hready]
    · exact h
  next => exact h
  next => split <;> exact h

theorem length_keyboardControl_le (v : Word) (queue : List Word) : (keyboardControl v queue).length ≤ queue.length := by
  unfold keyboardControl
  dsimp only
  repeat' split
  all_goals simp
  omega

/-- A write keeps the unit's shape: no queue grows, no Screen changes its size or its enable bit (R444, R448, R454). -/
theorem unitOk_write {cfg : Config} {d : Device} {off : Nat} {v : Word} (h : unitOk cfg d = true) :
    unitOk cfg (d.write off v) = true := by
  unfold Device.write
  split
  next queue ready hu =>
    split
    · exact h
    · obtain ⟨hsize, hlen, -⟩ := (unitOk_keyboard hu).mp h
      exact (unitOk_keyboard rfl).mpr ⟨hsize, (length_keyboardControl_le v queue).trans hlen, rfl⟩
  next hu => exact (unitOk_lights rfl).mpr ((unitOk_lights hu).mp h)
  next cells power hu =>
    obtain ⟨hsize, hlen, hen⟩ := (unitOk_screen hu).mp h
    split
    · exact (unitOk_screen rfl).mpr ⟨hsize, by rw [List.length_set, hlen], hen⟩
    · refine (unitOk_screen rfl).mpr ⟨hsize, ?_, hen⟩
      split <;> simp [hlen]

/-! ### The invariant under changes of the state -/

/-- The invariant is about the parameters, the memory, its map, the registry and the manual set alone. -/
theorem Inv.of_eq {s t : State} (h : Inv s) (hcfg : t.cfg = s.cfg) (hcells : t.cells = s.cells)
    (hmodules : t.modules = s.modules) (hdevices : t.devices = s.devices) (hset : t.manualSet = s.manualSet) : Inv t where
  memory := by rw [hcells, hcfg]; exact h.memory
  mapped := by simpa only [State.inModule, hcells, hmodules] using h.mapped
  modules := by rw [hmodules, hcfg]; exact h.modules
  devices := by rw [hdevices, hcfg]; exact h.devices
  modulesApart := by rw [hmodules]; exact h.modulesApart
  devicesApart := by rw [hdevices]; exact h.devicesApart
  apart := by rw [hmodules, hdevices]; exact h.apart
  names := by rw [hdevices]; exact h.names
  manual := by rw [hset]; exact h.manual

/-- Every manual set that the validator accepts in an idle memory may stand in the state (R43). -/
theorem Inv.setManual {s : State} {S : List Signal} (h : Inv s) (hS : validSet .idle S = true) :
    Inv { s with manualSet := S } :=
  { h with manual := hS }

/-- The registry's devices may change what is not their name or range, as long as their units keep their shape. -/
theorem Inv.setDevices {s : State} {ds : List Device} (h : Inv s)
    (hplace : ds.map Device.place = s.devices.map Device.place) (hunit : ∀ d ∈ ds, unitOk s.cfg d = true) :
    Inv { s with devices := ds } := by
  have hold : ∀ d ∈ ds, ∃ e ∈ s.devices, e.base = d.base ∧ e.size = d.size := fun d hd => by
    obtain ⟨e, he, hde⟩ := List.mem_map.mp (hplace ▸ List.mem_map_of_mem hd)
    simp only [Device.place, Prod.mk.injEq] at hde
    exact ⟨e, he, hde.2⟩
  refine { h with devices := fun d hd => ?_, devicesApart := ?_, apart := fun m hm d hd => ?_, names := ?_ }
  · obtain ⟨e, he, hbase, hsize⟩ := hold d hd
    obtain ⟨hlow, hfits, -⟩ := h.devices e he
    exact ⟨hbase ▸ hlow, hbase ▸ hsize ▸ hfits, hunit d hd⟩
  · have hapart : (s.devices.map Device.place).Pairwise placesApart :=
      List.pairwise_map.mpr (h.devicesApart.imp placesApart_place.mpr)
    rw [← hplace] at hapart
    exact (List.pairwise_map.mp hapart).imp placesApart_place.mp
  · obtain ⟨e, he, hbase, hsize⟩ := hold d hd
    exact hbase ▸ hsize ▸ h.apart m hm e he
  · have hnames : ∀ l : List Device, l.map Device.name = (l.map Device.place).map Prod.fst := fun l => by
      simp [Device.place, Function.comp_def]
    show (ds.map Device.name).Nodup
    rw [hnames, hplace, ← hnames]
    exact h.names

/-- One device of the registry may change so. -/
theorem Inv.setDevice {s : State} {k : Nat} {d e : Device} (h : Inv s) (hk : s.devices[k]? = some d)
    (hplace : e.place = d.place) (hunit : unitOk s.cfg e = true) :
    Inv { s with devices := s.devices.set k e } := by
  refine h.setDevices ?_ (forall_mem_set (fun f hf => (h.devices f hf).unit) hunit)
  obtain ⟨hlt, rfl⟩ := List.getElem?_eq_some_iff.mp hk
  rw [List.map_set, hplace, ← List.getElem_map Device.place (h := by simpa using hlt), List.set_getElem_self]

theorem Inv.unit_of_getElem? {s : State} {k : Nat} {d : Device} (h : Inv s) (hk : s.devices[k]? = some d) :
    unitOk s.cfg d = true :=
  (h.devices d (List.mem_of_getElem? hk)).unit

/-- A device's request and its interrupt read do not matter (R424). -/
theorem Inv.setRequest {s : State} {k : Nat} {d : Device} (h : Inv s) (hk : s.devices[k]? = some d) (p : Bool) (r : IntRead) :
    Inv { s with devices := s.devices.set k { d with pending := p, intRead := r } } :=
  h.setDevice hk rfl (h.unit_of_getElem? hk :)

/-- A read through the memory map keeps the invariant (R67, R80). -/
theorem Inv.getPos {s : State} {a : Nat} {w : Word} {ds : List Device} (h : Inv s) (hr : s.getPos a = some (w, ds)) :
    Inv { s with devices := ds } := by
  unfold State.getPos at hr
  split at hr
  · cases hr; exact h
  · obtain ⟨k, d, hk, -, he⟩ := readDevices_spec hr
    obtain ⟨-, rfl⟩ := Prod.mk.inj he
    exact h.setDevice hk (d.read_place _) (unitOk_read (h.unit_of_getElem? hk))

/-- A write through the memory map keeps the invariant: a word goes to a cell inside a module, or to one device (R68). -/
theorem Inv.setPos {s : State} {a : Nat} {v : Word} {r : Memory × List Device} (h : Inv s) (hw : s.setPos a v = some r) :
    Inv (s.withMemory r) := by
  unfold State.setPos at hw
  split at hw
  next hin =>
    cases hw
    refine { h with memory := Memory.wf_write h.memory, mapped := fun e he => ?_ }
    obtain rfl | he := Memory.mem_write he
    · exact hin
    · exact h.mapped e he
  next =>
    obtain ⟨ds, hds, rfl⟩ := Option.map_eq_some_iff.mp hw
    obtain ⟨k, d, hk, -, rfl⟩ := writeDevices_spec hds
    exact h.setDevice hk (d.write_place _ _) (unitOk_write (h.unit_of_getElem? hk))

/-! ### The invariant along a step -/

/-- The acknowledge marks one device's interrupt read (R434). -/
theorem Inv.acknowledge {s : State} (h : Inv s) (k : Nat) :
    Inv { s with devices := acknowledgeAt k s.devices } := by
  unfold acknowledgeAt
  cases hk : s.devices[k]? with
  | none => rw [List.modify_eq_self (List.getElem?_eq_none_iff.mp hk)]; exact h
  | some d =>
    rw [List.modify_eq_set_getElem?, hk]
    exact h.setRequest hk d.pending .armed0

/-- Signals keep the invariant: they change registers, arm an access or acknowledge a device (R161 to R193). -/
theorem Inv.execSignal {g : Signal} {s t : State} (h : Inv s) (ht : execSignal g s = .next t) : Inv t := by
  cases g with
  | read | write => obtain ⟨-, rfl⟩ := arm_eq_next ht; exact h.of_eq rfl rfl rfl rfl rfl
  | inta => obtain ⟨k, -, rfl⟩ := acknowledge_eq_next ht; exact h.acknowledge k
  | _ => cases ht; exact h.of_eq rfl rfl rfl rfl rfl

theorem Inv.sequenceStep {S : MicroStep} {s t : State} (h : Inv s) (ht : sequenceStep S s = .next t) : Inv t := by
  obtain ⟨c, rfl⟩ | rfl | ⟨c, a, rfl⟩ | rfl := sequenceStep_eq_next ht
  · exact (h.setManual (S := []) rfl).of_eq rfl rfl rfl rfl rfl
  all_goals exact h.of_eq rfl rfl rfl rfl rfl

theorem Inv.memTick {s t : State} (h : Inv s) (ht : memTick s = .next t) : Inv t := by
  obtain rfl | rfl | ⟨w, ds, hr, rfl⟩ | ⟨r, hw, rfl⟩ := memTick_eq_next ht
  · exact h
  · exact h.of_eq rfl rfl rfl rfl rfl
  · exact (h.getPos hr).of_eq rfl rfl rfl rfl rfl
  · exact (h.setPos hw).of_eq rfl rfl rfl rfl rfl

theorem Inv.deviceTick {s : State} (h : Inv s) (k : Nat) : Inv (deviceTick s k) := by
  obtain ht | ⟨d, hk, ⟨-, ht⟩ | ⟨-, ht⟩⟩ := deviceTick_spec s k <;> rw [ht]
  · exact h
  · exact h.setRequest hk d.pending .armed1
  · exact (h.setRequest hk false .idle).of_eq rfl rfl rfl rfl rfl

theorem Inv.pulseWith {field : Placeholder → Option Reg} {S : MicroStep} {s t : State} (h : Inv s)
    (ht : pulseWith field S s = .next t) : Inv t :=
  pulseWith_induction (hsignal := fun _ _ _ _ _ _ hx hs => hs.execSignal hx) (hsequence := fun _ _ hx hs => hs.sequenceStep hx)
    (hmemory := fun _ _ hx hs => hs.memTick hx) (hdevice := fun _ k hs => hs.deviceTick k)
    (hclear := fun _ hs => hs.of_eq rfl rfl rfl rfl rfl) (hstop := fun _ hs => hs.of_eq rfl rfl rfl rfl rfl) ht h

theorem Inv.pulse {s t : State} (h : Inv s) (ht : pulse s = .next t) : Inv t := by
  unfold Machine.pulse at ht
  split at ht
  · exact h.pulseWith ht
  · cases ht

theorem Inv.runToFin {n : Nat} {s t : State} (h : Inv s) (ht : runToFin n s = .next t) : Inv t := by
  induction n generalizing s with
  | zero => cases ht; exact h
  | succ n ih =>
    obtain ⟨u, hu, ht⟩ := andThen_eq_next ht
    split at ht
    · cases ht; exact h.pulse hu
    · exact ih (h.pulse hu) ht

theorem step_eq_pulse {s : State} (hm : ¬ s.runsToFin) : step s = pulse s.start := by
  unfold step
  cases h : s.mode <;> simp_all [State.runsToFin]

/-- Settles O59: a step is pulses, and each part of a pulse keeps the invariant. -/
theorem invariantKeptByStep : Obligations.InvariantKeptByStep := by
  intro s t h ht
  have hstart : Inv s.start := h.of_eq rfl rfl rfl rfl rfl
  by_cases hm : s.runsToFin
  · rw [stepIsItsPulses s hm] at ht
    exact hstart.runToFin ht
  · rw [step_eq_pulse hm] at ht
    exact hstart.pulse ht

/-! ### The invariant under the host's commands -/

theorem storeWords_inv {a : Word} {ws : List Word} {s : State} (h : Inv s) : Inv (storeWords a ws s).state := by
  induction ws generalizing a s with
  | nil => exact h
  | cons w ws ih =>
    unfold storeWords
    split
    next r hw => exact ih (h.setPos hw)
    next => exact h

theorem loadProgram_inv {ls : List (List Char)} {s : State} (h : Inv s) : Inv (loadProgram ls s).state := by
  unfold loadProgram
  split
  · exact storeWords_inv (h.of_eq rfl rfl rfl rfl rfl)
  all_goals exact h

theorem loadMemory_inv {offset : Nat} {ls : List (List Char)} {s : State} (h : Inv s) :
    Inv (loadMemory offset ls s).state := by
  unfold loadMemory
  split
  · split
    · exact storeWords_inv h
    · exact h
  · exact h

theorem rangesOverlap_comm (a la b lb : Nat) : rangesOverlap a la b lb = rangesOverlap b lb a la :=
  Bool.and_comm _ _

/-- A free range has no address in common with any module or device (R66). -/
theorem State.free_iff {s : State} {a len : Nat} :
    s.free a len = true ↔ (∀ m ∈ s.modules, m.outside a len = true) ∧ ∀ d ∈ s.devices, d.outside a len = true := by
  simp [State.free]

/-- A legal module may be added where its range is free, with its cells at the fill value (R64, R66). -/
theorem Inv.addModule {m : Module} {s : State} (h : Inv s) (hm : ModuleOk s.cfg m)
    (hfree : s.free m.start (m.sizeK * 1024) = true) :
    Inv { s with modules := s.modules ++ [m], cells := s.cells.clear m.start (m.sizeK * 1024) } := by
  obtain ⟨hmodules, hdevices⟩ := State.free_iff.mp hfree
  refine { h with memory := Memory.wf_clear h.memory, mapped := fun e he => ?_, modules := ?_, modulesApart := ?_, apart := ?_ }
  · obtain ⟨n, hn, hcov⟩ := List.any_eq_true.mp (h.mapped e (List.mem_of_mem_filter he))
    exact List.any_eq_true.mpr ⟨n, List.mem_append_left _ hn, hcov⟩
  · exact List.forall_mem_append.mpr ⟨h.modules, List.forall_mem_singleton.mpr hm⟩
  · exact List.pairwise_append.mpr ⟨h.modulesApart, List.pairwise_singleton _ _,
      fun n hn _ hnew => List.mem_singleton.mp hnew ▸ hmodules n hn⟩
  · refine List.forall_mem_append.mpr ⟨h.apart, List.forall_mem_singleton.mpr fun d hd => ?_⟩
    have hout := hdevices d hd
    rwa [Device.outside, rangesOverlap_comm] at hout

theorem addModule_inv {a k : Nat} {s : State} (h : Inv s) : Inv (addModule a k s).state := by
  unfold addModule
  split
  · exact h
  next hsize =>
  split
  · exact h
  next hfits =>
  split
  · exact h
  next haligned =>
  split
  · exact h
  next hfree =>
  exact h.addModule (m := ⟨a, k⟩) ⟨by simpa using hsize, by simpa using haligned, Nat.le_of_not_lt hfits⟩
    (by simpa using hfree)

/-- What lies outside the removed module's range lies in a module that stays (R65). -/
theorem removeModule_inv {a : Nat} {s : State} (h : Inv s) : Inv (removeModule a s).state := by
  unfold removeModule
  split
  next m hm =>
    have hsub : (s.modules.erase m).Sublist s.modules := List.erase_sublist
    refine { h with
      memory := Memory.wf_clear h.memory
      mapped := fun e he => ?_
      modules := fun n hn => h.modules n (hsub.subset hn)
      modulesApart := h.modulesApart.sublist hsub
      apart := fun n hn => h.apart n (hsub.subset hn) }
    obtain ⟨he, hout⟩ := List.mem_filter.mp he
    obtain ⟨n, hn, hcov⟩ := List.any_eq_true.mp (h.mapped e he)
    have hne : n ≠ m := by
      rintro rfl
      simp only [Module.covers, Bool.and_eq_true, Bool.or_eq_true, decide_eq_true_eq] at hcov hout
      omega
    exact List.any_eq_true.mpr ⟨n, (List.mem_erase_of_ne hne).mpr hn, hcov⟩
  next => exact h

/-- A new device has a unit of its kind's shape (R440, R447, R451). -/
theorem unitOk_newDevice (cfg : Config) (kind : DeviceKind) (name : String) (base vector priority : Nat) (enabled : Bool) :
    unitOk cfg (newDevice cfg kind name base vector priority enabled) = true := by
  cases kind with
  | keyboard => exact (unitOk_keyboard rfl).mpr ⟨rfl, Nat.zero_le _, rfl⟩
  | lights => exact (unitOk_lights rfl).mpr rfl
  | screen => exact (unitOk_screen rfl).mpr ⟨rfl, List.length_replicate, Bool.and_false _⟩

/-- A legal device with a new name may be added where its range is free (R421). -/
theorem Inv.addDevice {d : Device} {s : State} (h : Inv s) (hd : DeviceOk s.cfg d) (hname : ∀ e ∈ s.devices, e.name ≠ d.name)
    (hfree : s.free d.base d.size = true) : Inv { s with devices := s.devices ++ [d] } := by
  obtain ⟨hmodules, hdevices⟩ := State.free_iff.mp hfree
  refine { h with devices := ?_, devicesApart := ?_, apart := fun m hm => ?_, names := ?_ }
  · exact List.forall_mem_append.mpr ⟨h.devices, List.forall_mem_singleton.mpr hd⟩
  · exact List.pairwise_append.mpr ⟨h.devicesApart, List.pairwise_singleton _ _,
      fun e he _ hnew => List.mem_singleton.mp hnew ▸ hdevices e he⟩
  · exact List.forall_mem_append.mpr ⟨h.apart m hm, List.forall_mem_singleton.mpr (hmodules m hm)⟩
  · rw [List.map_append]
    refine List.nodup_append.mpr ⟨h.names, List.nodup_singleton _, ?_⟩
    simpa using hname

theorem addDevice_inv {kind : DeviceKind} {name : String} {base vector priority : Nat} {enabled : Bool} {s : State} (h : Inv s) :
    Inv (addDevice kind name base vector priority enabled s).state := by
  unfold addDevice
  dsimp only
  split
  · exact h
  next hbase =>
  split
  · exact h
  next hfits =>
  split
  · exact h
  next hname =>
  split
  · exact h
  next hfree =>
  exact h.addDevice
    ⟨Nat.lt_of_not_le hbase, Nat.le_of_not_lt hfits, unitOk_newDevice s.cfg kind name base vector priority enabled⟩
    (by simpa [newDevice] using hname) (by simpa [newDevice] using hfree)

theorem removeDevice_inv {name : String} {s : State} (h : Inv s) : Inv (removeDevice name s).state := by
  unfold removeDevice
  split
  next d hd =>
    have hsub : (s.devices.erase d).Sublist s.devices := List.erase_sublist
    exact { h with
      devices := fun e he => h.devices e (hsub.subset he)
      devicesApart := h.devicesApart.sublist hsub
      apart := fun m hm e he => h.apart m hm e (hsub.subset he)
      names := h.names.sublist (hsub.map _) }
  next => exact h

theorem writeRegister_inv {r : HostReg} {v : Option Nat} {s : State} (h : Inv s) : Inv (writeRegister r v s).state := by
  unfold writeRegister
  split
  · split
    · cases r <;> exact h.of_eq rfl rfl rfl rfl rfl
    · exact h
  · exact h

theorem writeCell_inv {a : Nat} {v : Option Nat} {s : State} (h : Inv s) : Inv (writeCell a v s).state := by
  unfold writeCell
  split
  · split
    · split
      next r hw => exact h.setPos hw
      next => exact h
    · exact h
  · exact h

theorem setManualMode_inv {on : Bool} {s : State} (h : Inv s) : Inv (setManualMode on s).state := by
  unfold setManualMode
  split
  · exact h.of_eq rfl rfl rfl rfl rfl
  · split
    · exact (h.setManual (S := []) rfl).of_eq rfl rfl rfl rfl rfl
    · exact h

theorem loadManualSignals_inv {ts : List String} {s : State} (h : Inv s) : Inv (loadManualSignals ts s).state := by
  unfold loadManualSignals
  split
  · exact h
  · split
    next S hS => exact h.setManual (addTokens_valid h.manual hS)
    next => exact h

theorem startStep_inv {s : State} (h : Inv s) : Inv (startStep s).state := by
  unfold startStep
  split <;> exact h.of_eq rfl rfl rfl rfl rfl

theorem startRun_inv {m : Mode} {s : State} (h : Inv s) : Inv (startRun m s).state := by
  unfold startRun
  split
  · exact h
  · exact h.of_eq rfl rfl rfl rfl rfl

/-- A raised request changes one device's `pending`, and `intf` (R432). -/
theorem raiseAt_inv {k : Nat} {s : State} (h : Inv s) : Inv (raiseAt k s) := by
  unfold raiseAt
  split
  next d hk =>
    split
    · exact (h.setRequest hk true d.intRead).of_eq rfl rfl rfl rfl rfl
    · exact h
  next => exact h

/-- A key is accepted only where the queue has room (R441). -/
theorem keyEvent_inv {name : String} {code : Nat} {s : State} (h : Inv s) : Inv (keyEvent name code s).state := by
  unfold keyEvent
  dsimp only
  split
  next d hk =>
    split
    next queue ready hu =>
      split
      · exact h
      next hroom =>
        obtain ⟨hsize, -, -⟩ := (unitOk_keyboard hu).mp (h.unit_of_getElem? hk)
        refine raiseAt_inv (h.setDevice hk rfl ((unitOk_keyboard rfl).mpr ⟨hsize, ?_, by simp⟩))
        simpa using Nat.lt_of_not_le hroom
    all_goals exact h
  next => exact h

theorem setSwitches_inv {name : String} {v : Nat} {s : State} (h : Inv s) : Inv (setSwitches name v s).state := by
  unfold setSwitches
  dsimp only
  split
  next d hk =>
    split
    next hu =>
      split
      · exact h.setDevice hk rfl ((unitOk_lights rfl).mpr ((unitOk_lights hu).mp (h.unit_of_getElem? hk)))
      · exact h
    all_goals exact h
  next => exact h

theorem lightsInterrupt_inv {name : String} {s : State} (h : Inv s) : Inv (lightsInterrupt name s).state := by
  unfold lightsInterrupt
  dsimp only
  split
  next =>
    split
    · exact raiseAt_inv h
    all_goals exact h
  next => exact h

/-- The enable bit matters to the Screen's shape alone, and the Screen's stays 0 (R449, R451). -/
theorem setDeviceIntEnabled_inv {name : String} {on : Bool} {s : State} (h : Inv s) :
    Inv (setDeviceIntEnabled name on s).state := by
  unfold setDeviceIntEnabled
  dsimp only
  split
  next d hk =>
    have hunit := h.unit_of_getElem? hk
    split
    next => exact h
    next hu =>
      exact h.setDevice hk rfl ((unitOk_keyboard (d := { d with intEnabled := on }) hu).mpr ((unitOk_keyboard hu).mp hunit))
    next hu => exact h.setDevice hk rfl ((unitOk_lights (d := { d with intEnabled := on }) hu).mpr ((unitOk_lights hu).mp hunit))
  next => exact h

/-- A command's effect keeps the invariant, `restore` of a snapshot that has it under the machine's parameters. -/
theorem effect_inv {c : Command} {s : State} (h : Inv s) (hz : ∀ z, c = .restore z → Inv { z with cfg := s.cfg }) :
    Inv (c.effect s).state := by
  cases c with
  | reset => exact (h.setManual (S := []) rfl).of_eq rfl rfl rfl rfl rfl
  | loadProgram ls => exact loadProgram_inv h
  | loadMemory o ls => exact loadMemory_inv h
  | step => exact startStep_inv h
  | runInstruction | run => exact startRun_inv h
  | stop => exact h.of_eq rfl rfl rfl rfl rfl
  | setManualMode on => exact setManualMode_inv h
  | loadManualSignals ts => exact loadManualSignals_inv h
  | addModule a k => exact addModule_inv h
  | removeModule a => exact removeModule_inv h
  | addDevice kind name base vector priority enabled => exact addDevice_inv h
  | removeDevice name => exact removeDevice_inv h
  | restore z => exact (hz z rfl).of_eq rfl rfl rfl rfl rfl
  | writeRegister r v => exact writeRegister_inv h
  | setPos a v => exact writeCell_inv h
  | key name code => exact keyEvent_inv h
  | setSwitches name v => exact setSwitches_inv h
  | lightsInterrupt name => exact lightsInterrupt_inv h
  | setDeviceIntEnabled name on => exact setDeviceIntEnabled_inv h

/-- Settles O60: a command leaves the old state or that of its effect, and every effect keeps the invariant. -/
theorem invariantKeptByCommands : Obligations.InvariantKeptByCommands := by
  intro c s h hz
  obtain hc | hc := command_state_cases c s <;> rw [hc]
  · exact h
  · exact effect_inv h hz

end Sys2Proof.Machine
end

section
/-! PROOFS. The fetch's own access (43_microcode_store.md R252 to R254) and its error at an unmapped address (R78, R404). -/

namespace Sys2Proof.Machine

/-- The fetch's first pulse, the second not yet run: the incremented PC is in TMPS, and the read at PC is armed (R252). -/
def State.fetchArmed (s : State) : State :=
  { s.fetching with
    alu := { s.fetching.alu with carryIn := true }
    pc := s.pc
    ib := s.pc
    memMode := .read
    memCnt := 1
    upc := 1
    stepCount := s.stepCount + 1 }

theorem pulse_fetchArmed {s : State} (hb : Boundary s) : pulse s = .next s.fetchArmed := by
  have hstored : storedStep 0 =
      [.sig .pcIb, .sig .tmpeClr, .sig .carryIn, .sig .add, .sig .aluTmps, .sig .ibMar, .sig .read] := by decide
  rw [pulse_eq_pulseWith hb.mode, hb.upc, hstored]
  have hinc := aluAdd_inc s.pc { s.alu with carryIn := true } rfl
  refine (pulse_arming (t := { s.fetchArmed with memCnt := 0, upc := 0, stepCount := s.stepCount })
    ?_ hb.mode rfl rfl (by simp [State.fetchArmed]) rfl hb.quiet.devices).trans rfl
  simp only [execTokens, execToken, Token.resolve, execSignal, andThen_next, State.clearCarry]
  rw [arm_idle (by exact hb.quiet.idle), hinc, ← hb.upc]
  rfl

/-- The fetch's second pulse where nothing is mapped at PC: the error comes after its signals, PC incremented (R253, R404). -/
theorem pulse_fetchArmed_unmapped {s : State} (hm : s.runsToFin) (hpc : s.getPos s.pc.toNat = none) :
    pulse s.fetchArmed = .fault (.noModuleOrDevice (s.fetching.stuckAt .read 2 0)) := by
  have harmed : s.fetchArmed.runsToFin := hm
  have hstored : storedStep 1 = [.sig .tmpsIb, .sig .ibPc] := by decide
  rw [pulse_eq_pulseWith harmed, show s.fetchArmed.upc = 1 from rfl, hstored]
  refine (pulse_unreadable rfl ?_ rfl rfl rfl rfl ?_).trans rfl
  · exact hm
  · exact hpc

/-- Settles O8: the first pulse arms the read at PC and the second one meets the error, so decode and dispatch never run. -/
theorem fetchFromUnmappedAddress : Obligations.FetchFromUnmappedAddress := by
  intro s hb hpc
  have hstart : Boundary s.start := ⟨⟨hb.quiet.idle, hb.quiet.count, hb.quiet.devices⟩, hb.upc, hb.mode⟩
  have hfetch : fetch s.start = .fault (.noModuleOrDevice (s.fetching.stuckAt .read 2 0)) := by
    rw [fetch, pulse_fetchArmed hstart, andThen_next, pulse_fetchArmed_unmapped hstart.mode hpc]
    rfl
  rw [step_of_runsToFin hb.mode, if_pos hb.upc, hfetch]
  rfl

end Sys2Proof.Machine
end

section
/-! PROOFS. What a run of microsteps that neither decodes nor acknowledges leaves alone: the memory map, the mode and the interrupt
flag always (R81, R415), the cells and the devices where no step arms an access (R72, R73), and when its end finds no access in
flight (R74). -/

namespace Sys2Proof.Machine

/-! ### Kinds of steps -/

/-- The step arms no access (R72, R73). -/
def accessFree (S : MicroStep) : Bool := !S.contains (.sig .read) && !S.contains (.sig .write)

/-- The step neither loads IR, so that nothing is decoded (R290), nor acknowledges an interrupt (R192). -/
def ordinary (S : MicroStep) : Bool := !S.any Token.isIbIr && !S.contains (.sig .inta)

/-- Placeholders stand for downloads and uploads only: an action signal is in the step by its own name (R103, R106). -/
theorem Token.eq_sig_of_action {field : Placeholder → Option Reg} {k : Token} {g : Signal} (h : k.resolve field = some g)
    (hg : g.kind = .action) : k = .sig g := by
  cases k with
  | sig j => rw [Option.some.inj h]
  | phIb p | ibPh p | ibhPh p | iblPh p =>
    obtain ⟨n, -, rfl⟩ := Option.map_eq_some_iff.mp h
    cases hg

/-- No instruction's program holds `ib-ir` or `inta`: these stand in the fetch and the interrupt block (R252 to R256). -/
theorem ordinary_programOf :
    ∀ op ∈ registered.map Prod.fst, ∀ S ∈ programOf op, ordinary S = true := by decide

/-- Every instruction's program ends with a step that arms no access (R260). -/
theorem accessFree_last_programOf :
    ∀ op ∈ registered.map Prod.fst, ∃ S ∈ (programOf op).getLast?, accessFree S = true := by decide

/-- An instruction's own program arms an access exactly where its rule says that it accesses memory (R320 to R379). -/
theorem accessFree_programOf (i : Instr) : (programOf i.opcode).all accessFree = !i.accessesMemory := by
  cases i <;> rfl

/-! ### Signals -/

/-- The memory map, the parameters, the mode, `intf`, the decoded word and the manual set are those of before. -/
structure KeepsSetup (s t : State) : Prop where
  modules : t.modules = s.modules
  cfg : t.cfg = s.cfg
  mode : t.mode = s.mode
  intf : t.intf = s.intf
  cur : t.cur = s.cur
  manualSet : t.manualSet = s.manualSet

theorem KeepsSetup.refl (s : State) : KeepsSetup s s := ⟨rfl, rfl, rfl, rfl, rfl, rfl⟩

theorem KeepsSetup.trans {s t u : State} (h : KeepsSetup s t) (k : KeepsSetup t u) : KeepsSetup s u :=
  ⟨k.modules.trans h.modules, k.cfg.trans h.cfg, k.mode.trans h.mode, k.intf.trans h.intf, k.cur.trans h.cur,
    k.manualSet.trans h.manualSet⟩

theorem KeepsSetup.runsToFin {s t : State} (h : KeepsSetup s t) (hm : s.runsToFin) : t.runsToFin := by
  unfold State.runsToFin
  rw [h.mode]
  exact hm

/-- Besides, the cells and the devices are those of before. -/
structure KeepsStorage (s t : State) : Prop extends KeepsSetup s t where
  cells : t.cells = s.cells
  devices : t.devices = s.devices

theorem KeepsStorage.refl (s : State) : KeepsStorage s s := ⟨.refl s, rfl, rfl⟩

theorem clearCarry_keepsStorage (s : State) : KeepsStorage s s.clearCarry := ⟨⟨rfl, rfl, rfl, rfl, rfl, rfl⟩, rfl, rfl⟩

theorem KeepsStorage.trans {s t u : State} (h : KeepsStorage s t) (k : KeepsStorage t u) : KeepsStorage s u :=
  ⟨h.toKeepsSetup.trans k.toKeepsSetup, k.cells.trans h.cells, k.devices.trans h.devices⟩

/-- What an address reads as is a matter of the map, the cells and the devices (R67, R69). -/
theorem KeepsStorage.peekPos {s t : State} (h : KeepsStorage s t) (a : Nat) : t.peekPos a = s.peekPos a := by
  unfold State.peekPos State.getPos State.inModule
  rw [h.modules, h.cells, h.cfg, h.devices]

/-- No signal but `inta` touches the memory map or its content: an access moves its word at a tick only (R74). -/
theorem execSignal_keepsStorage {g : Signal} {s t : State} (hg : g ≠ .inta) (h : execSignal g s = .next t) :
    KeepsStorage s t := by
  cases g with
  | inta => exact absurd rfl hg
  | read | write => obtain ⟨-, rfl⟩ := arm_eq_next h; exact ⟨⟨rfl, rfl, rfl, rfl, rfl, rfl⟩, rfl, rfl⟩
  | _ => cases h; exact ⟨⟨rfl, rfl, rfl, rfl, rfl, rfl⟩, rfl, rfl⟩

/-- Only `read` and `write` touch the controller's mode and counter (R72, R73). -/
theorem execSignal_access {g : Signal} {s t : State} (hr : g ≠ .read) (hw : g ≠ .write) (h : execSignal g s = .next t) :
    t.memMode = s.memMode ∧ t.memCnt = s.memCnt := by
  cases g with
  | read => exact absurd rfl hr
  | write => exact absurd rfl hw
  | inta => obtain ⟨k, -, rfl⟩ := acknowledge_eq_next h; exact ⟨rfl, rfl⟩
  | _ => cases h; exact ⟨rfl, rfl⟩

/-- An idle memory has its counter at 0, whatever the signals of a step have armed (R72, R73). -/
theorem execSignal_idleCount {g : Signal} {s t : State} (h : execSignal g s = .next t)
    (hs : s.memMode = .idle → s.memCnt = 0) : t.memMode = .idle → t.memCnt = 0 := by
  cases g with
  | read | write => obtain ⟨-, rfl⟩ := arm_eq_next h; exact fun _ => rfl
  | inta => obtain ⟨k, -, rfl⟩ := acknowledge_eq_next h; exact hs
  | _ => cases h; exact hs

section
variable {field : Placeholder → Option Reg} {S : MicroStep} {s t : State}

theorem execTokens_keepsStorage (hS : ordinary S = true) (h : execTokens field S s = .next t) : KeepsStorage s t := by
  have hinta : .sig .inta ∉ S := by simp_all [ordinary]
  refine execTokens_induction (P := KeepsStorage s) (fun k hk g hg u v hv hu => ?_) h (.refl s)
  refine hu.trans (execSignal_keepsStorage (fun he => hinta ?_) hv)
  exact he ▸ Token.eq_sig_of_action hg (he ▸ rfl) ▸ hk

theorem execTokens_access (hS : accessFree S = true) (h : execTokens field S s = .next t) :
    t.memMode = s.memMode ∧ t.memCnt = s.memCnt := by
  obtain ⟨hread, hwrite⟩ : .sig .read ∉ S ∧ .sig .write ∉ S := by simp_all [accessFree]
  refine execTokens_induction (P := fun u => u.memMode = s.memMode ∧ u.memCnt = s.memCnt)
    (fun k hk g hg u v hv hu => ?_) h ⟨rfl, rfl⟩
  have hr : g ≠ .read := fun he => hread (he ▸ Token.eq_sig_of_action hg (he ▸ rfl) ▸ hk)
  have hw : g ≠ .write := fun he => hwrite (he ▸ Token.eq_sig_of_action hg (he ▸ rfl) ▸ hk)
  obtain ⟨hmode, hcnt⟩ := execSignal_access hr hw hv
  exact ⟨hmode.trans hu.1, hcnt.trans hu.2⟩

/-- No signal leaves an idle memory with its counter at 1 (R72, R73). -/
theorem execTokens_idleCount (h : execTokens field S s = .next t) (hs : s.memMode = .idle → s.memCnt = 0) :
    t.memMode = .idle → t.memCnt = 0 :=
  execTokens_induction (P := fun u => u.memMode = .idle → u.memCnt = 0)
    (fun _ _ _ _ _ _ hv hu => execSignal_idleCount hv hu) h hs

/-! ### Pulses -/

/-- Between two pulses: the clock runs by itself, no device is armed, and an access in flight has its first tick behind it (R74). -/
structure MidProgram (s : State) : Prop where
  mode : s.runsToFin
  devices : ∀ d ∈ s.devices, d.intRead = .idle
  access : (s.memMode = .idle ∧ s.memCnt = 0) ∨ (s.memMode ≠ .idle ∧ s.memCnt = 1)

theorem Quiet.midProgram (hq : Quiet s) (hm : s.runsToFin) : MidProgram s := ⟨hm, hq.devices, .inl ⟨hq.idle, hq.count⟩⟩

theorem memTick_idle (h : s.memMode = .idle) : memTick s = .next s := by
  simp [memTick, h]

/-- The first tick of an access only advances the counter (R74). -/
theorem memTick_first (hi : s.memMode ≠ .idle) (hc : s.memCnt = 0) : memTick s = .next { s with memCnt := 1 } := by
  cases h : s.memMode with
  | idle => exact absurd h hi
  | read | write => simp only [memTick, h, hc, if_true]

/-- The second tick of an access ends it (R74, R76). -/
theorem memTick_second (hi : s.memMode ≠ .idle) (hc : s.memCnt = 1) (h : memTick s = .next t) :
    t.memMode = .idle ∧ t.memCnt = 0 := by
  cases hmode : s.memMode with
  | idle => exact absurd hmode hi
  | read | write =>
    simp only [memTick, hmode, hc, one_ne_zero, if_false] at h
    split at h <;> cases h
    exact ⟨rfl, rfl⟩

/-- After a tick an access in flight has its first tick behind it. -/
theorem memTick_access (hs : s.memMode = .idle → s.memCnt = 0) (h : memTick s = .next t) :
    (t.memMode = .idle ∧ t.memCnt = 0) ∨ (t.memMode ≠ .idle ∧ t.memCnt = 1) := by
  by_cases hi : s.memMode = .idle
  · rw [memTick_idle hi] at h
    cases h
    exact .inl ⟨hi, hs hi⟩
  by_cases hc : s.memCnt = 0
  · rw [memTick_first hi hc] at h
    cases h
    exact .inr ⟨hi, rfl⟩
  · exact .inl (memTick_second hi (Fin.eq_one_of_ne_zero _ hc) h)

/-- A memory tick keeps the map and arms no device (R74). -/
theorem memTick_keepsSetup (h : memTick s = .next t) (hd : ∀ d ∈ s.devices, d.intRead = .idle) :
    KeepsSetup s t ∧ ∀ d ∈ t.devices, d.intRead = .idle := by
  obtain rfl | rfl | ⟨w, ds, hget, rfl⟩ | ⟨r, hset, rfl⟩ := memTick_eq_next h
  · exact ⟨.refl _, hd⟩
  · exact ⟨⟨rfl, rfl, rfl, rfl, rfl, rfl⟩, hd⟩
  · exact ⟨⟨rfl, rfl, rfl, rfl, rfl, rfl⟩, State.getPos_quiet hget hd⟩
  · exact ⟨⟨rfl, rfl, rfl, rfl, rfl, rfl⟩, State.setPos_quiet hset hd⟩

/-- In the modes that run to `fin`, an ordinary step ends the instruction or advances (R288, R289). -/
theorem sequenceStep_ordinary (hm : s.runsToFin) (hS : ordinary S = true) (h : sequenceStep S s = .next t) :
    t = s.endInstruction ∨ t = s.advance := by
  cases hf : S.any Token.isFin with
  | true => rw [sequenceStep_fin hm hf] at h; cases h; exact .inl rfl
  | false =>
    have hi : S.any Token.isIbIr = false := by simp_all [ordinary]
    rw [sequenceStep_plain hm hf hi] at h; cases h; exact .inr rfl

/-- An ordinary pulse is its memory tick on a state that keeps the storage, and the access in flight too where its step arms none:
no device's tick does anything (R282, R427). -/
theorem pulseWith_ordinary (hs : MidProgram s) (hS : ordinary S = true) (h : pulseWith field S s = .next t) :
    ∃ v, KeepsStorage s v ∧ (v.memMode = .idle → v.memCnt = 0)
      ∧ (accessFree S = true → v.memMode = s.memMode ∧ v.memCnt = s.memCnt) ∧ memTick v = .next t := by
  obtain ⟨u, hu, h⟩ := andThen_eq_next h
  obtain ⟨v, hv, h⟩ := andThen_eq_next h
  obtain ⟨x, hx, h⟩ := andThen_eq_next h
  have hsu : KeepsStorage s u := (clearCarry_keepsStorage s).trans (execTokens_keepsStorage hS hu)
  obtain ⟨huv, hmode, hcnt⟩ : KeepsStorage u v ∧ v.memMode = u.memMode ∧ v.memCnt = u.memCnt := by
    obtain rfl | rfl := sequenceStep_ordinary (hsu.runsToFin hs.mode) hS hv <;>
      exact ⟨⟨⟨rfl, rfl, rfl, rfl, rfl, rfl⟩, rfl, rfl⟩, rfl, rfl⟩
  have hsv : KeepsStorage s v := hsu.trans huv
  obtain ⟨hvx, hdx⟩ := memTick_keepsSetup hx (hsv.devices ▸ hs.devices)
  rw [ioTick_quiet hdx, State.stopTest_eq x (hvx.runsToFin (hsv.runsToFin hs.mode))] at h
  have hidle : s.memMode = .idle → s.memCnt = 0 := by
    obtain ⟨-, hc⟩ | ⟨hi, -⟩ := hs.access
    · exact fun _ => hc
    · exact fun hi' => absurd hi' hi
  refine ⟨v, hsv, ?_, fun hfree => ?_, h ▸ hx⟩
  · rw [hmode, hcnt]
    exact execTokens_idleCount hu hidle
  · rw [hmode, hcnt]
    exact execTokens_access (s := s.clearCarry) hfree hu

/-- An ordinary pulse keeps the map, the mode and `intf`, and leaves the machine between two pulses. -/
theorem pulseWith_keepsSetup (hs : MidProgram s) (hS : ordinary S = true) (h : pulseWith field S s = .next t) :
    KeepsSetup s t ∧ MidProgram t := by
  obtain ⟨v, hsv, hidle, -, ht⟩ := pulseWith_ordinary hs hS h
  obtain ⟨hvt, hd⟩ := memTick_keepsSetup ht (hsv.devices ▸ hs.devices)
  have hst : KeepsSetup s t := hsv.toKeepsSetup.trans hvt
  exact ⟨hst, hst.runsToFin hs.mode, hd, memTick_access hidle ht⟩

/-- An ordinary pulse that arms no access leaves none in flight: what was in flight has ended (R74, R75). -/
theorem pulseWith_quiet (hs : MidProgram s) (hS : ordinary S = true) (hfree : accessFree S = true)
    (h : pulseWith field S s = .next t) : Quiet t := by
  obtain ⟨v, hsv, -, hkeep, ht⟩ := pulseWith_ordinary hs hS h
  obtain ⟨hmode, hcnt⟩ := hkeep hfree
  obtain ⟨-, hd⟩ := memTick_keepsSetup ht (hsv.devices ▸ hs.devices)
  obtain ⟨hi, hc⟩ | ⟨hi, hc⟩ := hs.access
  · rw [memTick_idle (hmode.trans hi)] at ht
    cases ht
    exact ⟨hmode.trans hi, hcnt.trans hc, hd⟩
  · obtain ⟨hi', hc'⟩ := memTick_second (hmode ▸ hi) (hcnt.trans hc) ht
    exact ⟨hi', hc', hd⟩

/-- From a quiet state such a pulse keeps the cells and the devices (R81). -/
theorem pulseWith_keepsStorage (hq : Quiet s) (hm : s.runsToFin) (hS : ordinary S = true) (hfree : accessFree S = true)
    (h : pulseWith field S s = .next t) : KeepsStorage s t := by
  obtain ⟨v, hsv, -, hkeep, ht⟩ := pulseWith_ordinary (hq.midProgram hm) hS h
  obtain ⟨hmode, -⟩ := hkeep hfree
  rw [memTick_idle (hmode.trans hq.idle)] at ht
  cases ht
  exact hsv

/-! ### Runs -/

variable {p : Microprogram}

theorem runSteps_keepsSetup (hs : MidProgram s) (hp : ∀ S ∈ p, ordinary S = true) (h : runSteps field p s = .next t) :
    KeepsSetup s t ∧ MidProgram t := by
  induction p generalizing s with
  | nil => cases h; exact ⟨.refl _, hs⟩
  | cons S p ih =>
    obtain ⟨u, hu, h⟩ := andThen_eq_next h
    obtain ⟨hsu, hmid⟩ := pulseWith_keepsSetup hs (hp S List.mem_cons_self) hu
    obtain ⟨hut, ht⟩ := ih hmid (fun T hT => hp T (List.mem_cons_of_mem _ hT)) h
    exact ⟨hsu.trans hut, ht⟩

/-- A run of ordinary steps whose last one arms no access ends with none in flight. -/
theorem runSteps_quiet (hs : MidProgram s) (hp : ∀ S ∈ p, ordinary S = true)
    (hlast : ∃ S ∈ p.getLast?, accessFree S = true) (h : runSteps field p s = .next t) : Quiet t := by
  obtain ⟨S, hS, hfree⟩ := hlast
  rw [← List.dropLast_append_getLast? S hS, runSteps_append] at h
  obtain ⟨u, hu, h⟩ := andThen_eq_next h
  obtain ⟨t', ht', h⟩ := andThen_eq_next h
  cases h
  obtain ⟨-, hmid⟩ := runSteps_keepsSetup hs (fun T hT => hp T (List.mem_of_mem_dropLast hT)) hu
  exact pulseWith_quiet hmid (hp S (List.mem_of_mem_getLast? hS)) hfree ht'

/-- A run of ordinary steps that arm no access keeps the cells and the devices too. -/
theorem runSteps_keepsStorage (hq : Quiet s) (hm : s.runsToFin) (hp : ∀ S ∈ p, ordinary S = true)
    (hfree : ∀ S ∈ p, accessFree S = true) (h : runSteps field p s = .next t) : KeepsStorage s t := by
  induction p generalizing s with
  | nil => cases h; exact .refl _
  | cons S p ih =>
    obtain ⟨u, hu, h⟩ := andThen_eq_next h
    have hS := hp S List.mem_cons_self
    have hSfree := hfree S List.mem_cons_self
    have hsu := pulseWith_keepsStorage hq hm hS hSfree hu
    exact hsu.trans (ih (pulseWith_quiet (hq.midProgram hm) hS hSfree hu) (hsu.runsToFin hm)
      (fun T hT => hp T (List.mem_cons_of_mem _ hT)) (fun T hT => hfree T (List.mem_cons_of_mem _ hT)) h)

end

/-! ### Instructions -/

theorem enter_keepsStorage (i : Instr) (a : Fin 106) (s : State) : KeepsStorage s (s.enter i a) :=
  ⟨⟨rfl, rfl, rfl, rfl, rfl, rfl⟩, rfl, rfl⟩

theorem Quiet.enter {s : State} (hq : Quiet s) (i : Instr) (a : Fin 106) : Quiet (s.enter i a) := hq.of_eq rfl rfl rfl

/-- Every instruction keeps the map, the mode and `intf`, and ends with no access in flight (R258, R415). -/
theorem exec_keepsSetup {i : Instr} {s t : State} (hq : Quiet s) (hm : s.runsToFin) (h : exec i s = .next t) :
    KeepsSetup s t ∧ Quiet t := by
  rw [exec_eq_runProgram] at h
  have hreg := dispatchOpcode_registered i s.sr
  have hord := ordinary_programOf _ hreg
  have hmid : MidProgram (s.enter i (firstAddress (dispatchOpcode i s.sr))) := (hq.enter i _).midProgram hm
  have hset := (runSteps_keepsSetup hmid hord h).1
  exact ⟨(enter_keepsStorage i _ s).toKeepsSetup.trans hset, runSteps_quiet hmid hord (accessFree_last_programOf _ hreg) h⟩

/-- An instruction without an access of its own runs steps that arm none, the branch not taken too (R262). -/
theorem accessFree_of_accessesMemory {i : Instr} (hi : i.accessesMemory = false) (sr : BitVec 5) :
    ∀ S ∈ programOf (dispatchOpcode i sr), accessFree S = true := by
  obtain hd | hd := dispatchOpcode_cases i sr <;> rw [hd]
  · exact List.all_eq_true.mp (by rw [accessFree_programOf, hi]; rfl)
  · decide

theorem exec_keepsStorage {i : Instr} {s t : State} (hq : Quiet s) (hm : s.runsToFin) (hi : i.accessesMemory = false)
    (h : exec i s = .next t) : KeepsStorage s t := by
  rw [exec_eq_runProgram] at h
  exact (enter_keepsStorage i _ s).trans (runSteps_keepsStorage (hq.enter i _) hm
    (ordinary_programOf _ (dispatchOpcode_registered i s.sr)) (accessFree_of_accessesMemory hi s.sr) h)

/-- Settles O39: no instruction's step decodes or acknowledges, and the steps of an instruction without an access arm none. -/
theorem memoryUntouchedWithoutAccess : Obligations.MemoryUntouchedWithoutAccess := by
  intro i s t hq hm h
  obtain ⟨hset, hquiet⟩ := exec_keepsSetup hq hm h
  refine ⟨fun hi => ?_, hset.modules, hset.cfg, hset.mode, hset.intf, hset.cur, hset.manualSet, hquiet⟩
  have hkeep := exec_keepsStorage hq hm hi h
  exact ⟨hkeep.cells, hkeep.devices, hkeep.peekPos⟩

end Sys2Proof.Machine
end

section
/-! PROOFS. The word that a store puts in memory (45_instr_move.md R324, R327; 47_instr_control.md R363, R364): the run of a store and what
stands after it, and reading any address after one word was written (R68, R81). -/

namespace Sys2Proof.Machine

/-! ### Writing one word -/

theorem State.setPos_inModule {s : State} {a : Nat} (h : s.inModule a = true) (v : Word) :
    s.setPos a v = some (s.cells.write s.cfg.memFill a v, s.devices) := by
  simp [State.setPos, h]

/-- A write to a device leaves the cells alone (R68). -/
theorem State.setPos_cells_of_not_inModule {s : State} {a : Nat} {v : Word} {r : Memory × List Device}
    (h : s.inModule a = false) (hr : s.setPos a v = some r) : r.1 = s.cells := by
  simp only [State.setPos, h, Bool.false_eq_true, if_false] at hr
  obtain ⟨ds, -, rfl⟩ := Option.map_eq_some_iff.mp hr
  rfl

/-- A write changes no cell but the addressed one, to a module or to a device (R68). -/
theorem State.setPos_read_ne {s : State} {a b : Nat} {v : Word} {r : Memory × List Device} (hwf : s.cells.wf s.cfg.memFill)
    (hr : s.setPos a v = some r) (hb : b ≠ a) : r.1.read s.cfg.memFill b = s.cells.read s.cfg.memFill b := by
  cases hin : s.inModule a with
  | true =>
    rw [State.setPos_inModule hin] at hr
    cases hr
    exact Memory.read_write_ne hwf hb
  | false => rw [State.setPos_cells_of_not_inModule hin hr]

/-- What every address reads as after a word was written to a module's cell (R67, R68). -/
theorem State.peekPos_write {s : State} {a : Nat} (hwf : s.cells.wf s.cfg.memFill) (hin : s.inModule a = true) (v : Word)
    (b : Nat) :
    { s with cells := s.cells.write s.cfg.memFill a v }.peekPos b = if b = a then some v else s.peekPos b := by
  have hmap : ∀ c, { s with cells := s.cells.write s.cfg.memFill a v }.inModule c = s.inModule c := fun _ => rfl
  simp only [State.peekPos, State.getPos, hmap]
  by_cases hb : b = a
  · subst hb
    simp only [hin, if_true, Option.map_some, Memory.read_write_same hwf]
  · simp only [hb, if_false, Memory.read_write_ne hwf hb]

/-! ### The run of a store -/

section
variable {field : Placeholder → Option Reg} {s t : State} {X : Token} {v : Word} {rest : Microprogram}

theorem execToken_pcIb {u : State} (h : u.pc = v) : execToken field (.sig .pcIb) u = .next { u with ib := v } :=
  h ▸ rfl

/-- A placeholder's download drives the register that the field names (R106, R161). -/
theorem execToken_phIb {u : State} {p : Placeholder} {n : Reg} (hp : field p = some n) (h : u.reg n = v) :
    execToken field (.phIb p) u = .next { u with ib := v } := by
  simp only [execToken, Token.resolve, hp, Option.map_some, execSignal, h]

theorem State.reg_of_regs {u : State} (h : u.regs = s.regs) (n : Reg) : u.reg n = s.reg n :=
  congrArg (·[n.val]) h

/-- A store that goes on has found its address mapped, and what follows it without an access keeps the memory it left (R68, R81). -/
theorem runSteps_store_next (hq : Quiet s) (hm : s.runsToFin)
    (hX : ∀ u : State, u.regs = s.regs → u.pc = s.pc → u.sr = s.sr → execToken field X u = .next { u with ib := v })
    (hf : X.isFin = false) (hi : X.isIbIr = false) (hord : ∀ S ∈ rest, ordinary S = true)
    (hfree : ∀ S ∈ rest, accessFree S = true)
    (h : runSteps field ([X, .sig .ibMdr, .sig .write] :: [] :: rest) s = .next t) :
    ∃ r, s.setPos s.mar.toNat v = some r ∧ t.cells = r.1 ∧ t.devices = r.2 := by
  cases hw : s.setPos s.mar.toNat v with
  | none =>
    rw [runSteps_store_unmapped hq hm hX hf hi hw] at h
    cases h
  | some r =>
    rw [runSteps_store hq hm hX hf hi hw] at h
    have hquiet : Quiet (afterStore s v r) := ⟨rfl, rfl, State.setPos_quiet hw hq.devices⟩
    have hkeep := runSteps_keepsStorage hquiet hm hord hfree h
    exact ⟨r, rfl, hkeep.cells, hkeep.devices⟩

/-- A push: the store goes to the decremented stack pointer, and its word is read after the decrement (R261, R327). -/
theorem runSteps_push_next (hq : Quiet s) (hm : s.runsToFin)
    (hX : ∀ u : State, u.regs = s.pushed.regs → u.pc = s.pc → execToken field X u = .next { u with ib := v })
    (hf : X.isFin = false) (hi : X.isIbIr = false) (hord : ∀ S ∈ rest, ordinary S = true)
    (hfree : ∀ S ∈ rest, accessFree S = true)
    (h : runSteps field (pushAddress ++ [X, .sig .ibMdr, .sig .write] :: [] :: rest) s = .next t) :
    ∃ r, s.setPos (s.reg spReg - 1).toNat v = some r ∧ t.cells = r.1 ∧ t.devices = r.2 := by
  rw [runSteps_pushAddress hq hm] at h
  refine runSteps_store_next ?_ ?_ ?_ hf hi hord hfree h
  · exact hq.of_eq rfl rfl rfl
  · exact hm
  · exact fun u hregs hpc _ => hX u hregs hpc

end

/-- The four storing instructions write `storedWord` at `storeAddress`, and nothing else of cells and devices (R324, R327, R363,
R364). -/
theorem exec_stores {i : Instr} {s t : State} {a v : Word} (hq : Quiet s) (hm : s.runsToFin) (ha : i.storeAddress s = some a)
    (hv : i.storedWord s = some v) (h : exec i s = .next t) :
    ∃ r, s.setPos a.toNat v = some r ∧ t.cells = r.1 ∧ t.devices = r.2 := by
  cases i with
  | movStore ri rs =>
    cases ha
    cases hv
    have hfirst : pulseWith (Instr.movStore ri rs).field [.phIb .ri, .sig .ibMar] (s.enter (.movStore ri rs) 8) =
        .next { (s.enter (.movStore ri rs) 8).clearCarry.advance with ib := s.reg ri, mar := s.reg ri } := by
      refine (pulse_plain rfl ?_ rfl rfl ?_ ?_).trans rfl
      · exact hm
      · exact hq.idle
      · exact hq.devices
    replace h := (runSteps_cons hfirst).symm.trans h
    refine runSteps_store_next (X := .phIb .rs) (rest := [[.sig .fin]]) ?_ ?_ ?_ rfl rfl (by decide) (by decide) h
    · exact hq.of_eq rfl rfl rfl
    · exact hm
    · exact fun u hregs _ _ => execToken_phIb rfl (State.reg_of_regs hregs rs)
  | push rs =>
    cases ha
    cases hv
    exact runSteps_push_next (s := s.enter (.push rs) 14) (X := .phIb .rs) (rest := [[.sig .fin]]) (hq.enter _ _) hm
      (fun u hregs _ => execToken_phIb rfl (State.reg_of_regs hregs rs)) rfl rfl (by decide) (by decide) h
  | callr d =>
    cases ha
    cases hv
    exact runSteps_push_next (s := s.enter (.callr d) 75) (X := .sig .pcIb) (rest := relativeJump) (hq.enter _ _) hm
      (fun u _ hpc => execToken_pcIb hpc) rfl rfl (by decide) (by decide) h
  | call rx =>
    cases ha
    cases hv
    exact runSteps_push_next (s := s.enter (.call rx) 82) (X := .sig .pcIb) (rest := [[.phIb .rx, .sig .ibPc, .sig .fin]])
      (hq.enter _ _) hm (fun u _ hpc => execToken_pcIb hpc) rfl rfl (by decide) (by decide) h
  | _ => cases ha

/-- Settles O40: the storing instructions make one write, and a write changes one word. -/
theorem storeChangesOneWord : Obligations.StoreChangesOneWord := by
  intro i s t a v hq hm hwf ha hv h
  obtain ⟨r, hr, hcells, hdevices⟩ := exec_stores hq hm ha hv h
  have hset : KeepsSetup s t := (exec_keepsSetup hq hm h).1
  refine ⟨fun b hb => ?_, fun hin => ?_⟩
  · rw [hset.cfg, hcells]
    exact State.setPos_read_ne hwf hr hb
  · rw [State.setPos_inModule hin] at hr
    cases hr
    have hkeep : KeepsStorage { s with cells := s.cells.write s.cfg.memFill a.toNat v } t :=
      ⟨⟨hset.modules, hset.cfg, hset.mode, hset.intf, hset.cur, hset.manualSet⟩, hcells, hdevices⟩
    refine ⟨hdevices, ?_, fun b hb => ?_⟩ <;> rw [hkeep.peekPos, State.peekPos_write hwf hin]
    · exact if_pos rfl
    · exact if_neg hb

end Sys2Proof.Machine
end

section
/-! PROOFS. The load from memory or a device (45_instr_move.md R323), and which device an address reaches (R423, R442). -/

namespace Sys2Proof.Machine

/-- A read reaches the first registered device that covers the address (R423). -/
theorem readDevices_of_getElem? {a k : Nat} {d : Device} {ds : List Device} (hk : ds[k]? = some d) (hd : d.covers a = true)
    (hfirst : ∀ j e, j < k → ds[j]? = some e → e.covers a = false) :
    readDevices a ds = some ((d.read (a - d.base)).1, ds.set k (d.read (a - d.base)).2) := by
  induction ds generalizing k with
  | nil => simp at hk
  | cons e ds ih =>
    cases k with
    | zero =>
      obtain rfl : e = d := by simpa using hk
      simp [readDevices, hd]
    | succ k =>
      have he : e.covers a = false := hfirst 0 e k.succ_pos rfl
      have htail := ih (k := k) (by simpa using hk) fun j f hj hf => hfirst (j + 1) f (Nat.succ_lt_succ hj) (by simpa using hf)
      simp [readDevices, he, htail]

/-- A device covers its own first address (R423). -/
theorem Device.covers_base {d : Device} (h : 0 < d.size) : d.covers d.base = true := by
  simp [Device.covers, h]

/-- Reading the Keyboard's data address takes the oldest code (R442). -/
theorem Device.read_keyboard_data {d : Device} {c : Word} {rest : List Word} {ready : Bool}
    (h : d.unit = .keyboard (c :: rest) ready) :
    d.read 0 = (c, { d with unit := .keyboard rest (if rest = [] then false else ready) }) := by
  cases rest <;> simp [Device.read, h]

/-- What reading the word at the address `a` leaves: MAR and IB hold the address, MDR the word, and the devices are those after the
read (R323). -/
def afterRead (s : State) (a w : Word) (ds : List Device) : State :=
  { s with
    ib := a
    mar := a
    mdr := w
    devices := ds
    alu := { s.alu with carryIn := false }
    memMode := .idle
    memCnt := 0
    upc := s.upc + 1 + 1
    stepCount := s.stepCount + 1 + 1 }

/-- The step that drives an address into MAR and arms the read, and the empty step (R260). -/
theorem runSteps_read {field : Placeholder → Option Reg} {s : State} {X : Token} {a w : Word} {ds : List Device}
    {rest : Microprogram} (hq : Quiet s) (hm : s.runsToFin)
    (hX : execToken field X s.clearCarry = .next { s.clearCarry with ib := a }) (hf : X.isFin = false) (hi : X.isIbIr = false)
    (hr : s.getPos a.toNat = some (w, ds)) :
    runSteps field ([X, .sig .ibMar, .sig .read] :: [] :: rest) s = runSteps field rest (afterRead s a w ds) := by
  have harm : pulseWith field [X, .sig .ibMar, .sig .read] s =
      .next { s.clearCarry.advance with ib := a, mar := a, memMode := .read, memCnt := 1 } := by
    refine (pulse_arming (t := { s.clearCarry with ib := a, mar := a, memMode := .read, memCnt := 0 })
      ?_ hm ?_ ?_ (by simp) rfl hq.devices).trans rfl
    · simp only [execTokens, hX, andThen_next]
      simp only [execToken, Token.resolve, execSignal, andThen_next]
      rw [arm_idle (by exact hq.idle)]
      rfl
    · simp only [List.any_cons, hf]; rfl
    · simp only [List.any_cons, hi]; rfl
  refine runSteps_two harm ((pulse_reading rfl ?_ rfl rfl rfl rfl ?_ ?_).trans rfl)
  · exact hm
  · exact hq.devices
  · exact hr

/-- The load: the word that `getPos` answers goes to `Rd`, and the devices are those after the read (R323). -/
theorem exec_movLoad {rd ri : Reg} {s : State} {w : Word} {ds : List Device} (hq : Quiet s) (hm : s.runsToFin)
    (hr : s.getPos (s.reg ri).toNat = some (w, ds)) :
    exec (.movLoad rd ri) s =
      .next ({ s with mar := s.reg ri, mdr := w, ib := w, devices := ds }.setReg rd w).finish := by
  have hread := runSteps_read (field := (Instr.movLoad rd ri).field) (s := s.enter (.movLoad rd ri) 5) (X := .phIb .ri)
    (rest := [[.sig .mdrIb, .ibPh .rd, .sig .fin]]) (hq.enter _ _) hm (execToken_phIb rfl rfl) rfl rfl hr
  have hfin : pulseWith (Instr.movLoad rd ri).field [.sig .mdrIb, .ibPh .rd, .sig .fin]
        (afterRead (s.enter (.movLoad rd ri) 5) (s.reg ri) w ds) =
      .next { (afterRead (s.enter (.movLoad rd ri) 5) (s.reg ri) w ds).setReg rd w with ib := w }.endInstruction :=
    pulse_fin rfl hm rfl rfl (State.getPos_quiet hr hq.devices)
  refine (hread.trans (runSteps_cons hfin)).trans ?_
  rw [runSteps_nil]
  unfold afterRead
  rw [← hq.idle, ← hq.count]
  rfl

/-- Settles O55: the read reaches the Keyboard, which answers its oldest code. -/
theorem keyboardDataLoad : Obligations.KeyboardDataLoad := by
  intro rd ri s k d c rest ready hq hm hmod hk hbase hsize hfirst hunit
  have hget : s.getPos (s.reg ri).toNat =
      some (c, s.devices.set k { d with unit := .keyboard rest (if rest = [] then false else ready) }) := by
    rw [State.getPos, hmod, hbase, if_neg Bool.false_ne_true, readDevices_of_getElem? hk (Device.covers_base hsize) hfirst,
      Nat.sub_self, Device.read_keyboard_data hunit]
  exact ⟨_, exec_movLoad hq hm hget, State.setReg_reg_same .., rfl, rfl, rfl⟩

end Sys2Proof.Machine
end

section
/-! PROOFS. The decoder and the encoder (30_encoding.md R107 to R128): decoding is the one catalogue entry with the word's opcode,
the fields of an encoding are the operands, and the word's used bits are the encoding of what it decodes to. -/

namespace Sys2Proof.Machine

/-! ### The catalogue is a function of the opcode -/

/-- In a list whose keys are distinct, the entries with an entry's key are that entry alone. -/
theorem filter_key_eq_singleton {κ β : Type} [DecidableEq κ] {l : List (κ × β)} (hl : (l.map Prod.fst).Nodup) {e : κ × β}
    (he : e ∈ l) : l.filter (fun x => x.1 == e.1) = [e] := by
  induction l with
  | nil => cases he
  | cons x l ih =>
    obtain ⟨hx, hl⟩ := List.nodup_cons.mp hl
    rcases List.mem_cons.mp he with rfl | he
    · have hnone : l.filter (fun y => y.1 == e.1) = [] :=
        List.filter_eq_nil_iff.mpr fun y hy h => hx (eq_of_beq h ▸ List.mem_map_of_mem hy)
      simp [hnone]
    · have hne : x.1 ≠ e.1 := fun h => hx (h ▸ List.mem_map_of_mem he)
      simp [hne, ih hl he]

theorem catalogue_opcodes_nodup : (catalogue.map Prod.fst).Nodup := by decide

theorem decodeInstruction_of_mem {w : Word} {e : BitVec 5 × (Word → Instr)} (he : e ∈ catalogue) (ho : opcodeOf w = e.1) :
    decodeInstruction w = .ok (e.2 w) := by
  rw [decodeInstruction, ho, filter_key_eq_singleton catalogue_opcodes_nodup he]

theorem decodeInstruction_of_unlisted {w : Word} (h : opcodeOf w ∉ catalogue.map Prod.fst) :
    decodeInstruction w = .error .badInstruction := by
  have hnone : catalogue.filter (fun e => e.1 == opcodeOf w) = [] :=
    List.filter_eq_nil_iff.mpr fun e he ho => h (eq_of_beq ho ▸ List.mem_map_of_mem he)
  rw [decodeInstruction, hnone]

/-- What decoding answers: an entry's reading of the word, or BadInstruction where no entry has its opcode (R118, R119). -/
theorem decodeInstruction_cases (w : Word) :
    (∃ e ∈ catalogue, opcodeOf w = e.1 ∧ decodeInstruction w = .ok (e.2 w)) ∨
      (opcodeOf w ∉ catalogue.map Prod.fst ∧ decodeInstruction w = .error .badInstruction) := by
  by_cases h : opcodeOf w ∈ catalogue.map Prod.fst
  · obtain ⟨e, he, ho⟩ := List.mem_map.mp h
    exact .inl ⟨e, he, ho.symm, decodeInstruction_of_mem he ho.symm⟩
  · exact .inr ⟨h, decodeInstruction_of_unlisted h⟩

/-- A decoded instruction is the reading of the word by the entry with the word's opcode (R118). -/
theorem decodeInstruction_eq_ok {w : Word} {i : Instr} (h : decodeInstruction w = .ok i) :
    ∃ e ∈ catalogue, opcodeOf w = e.1 ∧ e.2 w = i := by
  rcases decodeInstruction_cases w with ⟨e, he, ho, hd⟩ | ⟨-, hd⟩
  · exact ⟨e, he, ho, Except.ok.inj (hd.symm.trans h)⟩
  · cases hd.symm.trans h

/-- The opcodes without an instruction (R126, R127). -/
theorem not_mem_catalogue_opcodes : ∀ op : BitVec 5, op ∉ catalogue.map Prod.fst ↔
    op = 0b01110 ∨ op = 0b01111 ∨ op = 0b11101 ∨ op = 0b11111 := by decide

/-- Settles O4: decoding answers an entry's reading exactly where the catalogue has the opcode. -/
theorem reservedOpcodesRefused : Obligations.ReservedOpcodesRefused := by
  intro w
  rw [← not_mem_catalogue_opcodes]
  rcases decodeInstruction_cases w with ⟨e, he, ho, hd⟩ | ⟨hop, hd⟩
  · simp [hd, ho, List.mem_map_of_mem he]
  · simp [hd, hop]

/-! ### The fields of an encoding -/

theorem regOfBits_regBits (r : Reg) : regOfBits (regBits r) = r := by revert r; decide

theorem regBits_regOfBits (b : BitVec 3) : regBits (regOfBits b) = b := by revert b; decide

theorem opcodeOf_encode (i : Instr) : opcodeOf (encode i) = i.opcode := BitVec.extractLsb'_append_eq_left

/-- Below the opcode, a field of an encoding is a field of the instruction's operand bits. -/
theorem extractLsb'_encode (i : Instr) {start len : Nat} (h : start + len ≤ 11) :
    (encode i).extractLsb' start len = i.operandBits.extractLsb' start len := BitVec.extractLsb'_append_eq_of_add_le h

theorem fieldA_encode (i : Instr) : fieldA (encode i) = regOfBits (i.operandBits.extractLsb' 8 3) := by
  rw [fieldA, extractLsb'_encode i (by decide)]

theorem fieldB_encode (i : Instr) : fieldB (encode i) = regOfBits (i.operandBits.extractLsb' 5 3) := by
  rw [fieldB, extractLsb'_encode i (by decide)]

theorem fieldC_encode (i : Instr) : fieldC (encode i) = regOfBits (i.operandBits.extractLsb' 2 3) := by
  rw [fieldC, extractLsb'_encode i (by decide)]

theorem fieldImm_encode (i : Instr) : fieldImm (encode i) = i.operandBits.extractLsb' 0 8 := by
  rw [fieldImm, extractLsb'_encode i (by decide)]

theorem fieldDisp_encode (i : Instr) : fieldDisp (encode i) = (i.operandBits.extractLsb' 0 8).toInt := by
  rw [fieldDisp, fieldImm_encode]

/-! The operand bits as `Instr.operandBits` lays them out, and what stands where a field is read. -/

section
variable (a b c : BitVec 3)

theorem byteOperands_high (k : Byte) : (a ++ k : BitVec 11).extractLsb' 8 3 = a :=
  BitVec.extractLsb'_append_eq_left

theorem byteOperands_low (k : Byte) : (a ++ k : BitVec 11).extractLsb' 0 8 = k :=
  BitVec.extractLsb'_append_eq_right

theorem twoOperands_first (x : BitVec 5) : (a ++ b ++ x : BitVec 11).extractLsb' 8 3 = a :=
  (BitVec.extractLsb'_append_eq_of_le (by decide)).trans BitVec.extractLsb'_append_eq_left

theorem twoOperands_second (x : BitVec 5) : (a ++ b ++ x : BitVec 11).extractLsb' 5 3 = b :=
  (BitVec.extractLsb'_append_eq_of_le (by decide)).trans BitVec.extractLsb'_append_eq_right

theorem threeOperands_first (x : BitVec 2) : (a ++ b ++ c ++ x : BitVec 11).extractLsb' 8 3 = a :=
  (BitVec.extractLsb'_append_eq_of_le (by decide)).trans <|
    (BitVec.extractLsb'_append_eq_of_le (by decide)).trans BitVec.extractLsb'_append_eq_left

theorem threeOperands_second (x : BitVec 2) : (a ++ b ++ c ++ x : BitVec 11).extractLsb' 5 3 = b :=
  (BitVec.extractLsb'_append_eq_of_le (by decide)).trans <|
    (BitVec.extractLsb'_append_eq_of_le (by decide)).trans BitVec.extractLsb'_append_eq_right

theorem threeOperands_third (x : BitVec 2) : (a ++ b ++ c ++ x : BitVec 11).extractLsb' 2 3 = c :=
  (BitVec.extractLsb'_append_eq_of_le (by decide)).trans BitVec.extractLsb'_append_eq_right

end

/-! ### Decoding an encoding -/

/-- An encoding decodes to its instruction where the entry of its opcode reads the instruction back. -/
theorem decodeInstruction_encode_of_lookup {i : Instr} {f : Word → Instr} (hl : catalogue.lookup i.opcode = some f)
    (hf : f (encode i) = i) : decodeInstruction (encode i) = .ok i := by
  obtain ⟨l, r, hsplit, -⟩ := List.lookup_eq_some_iff.mp hl
  have hmem : (i.opcode, f) ∈ catalogue := hsplit ▸ List.mem_append_right l List.mem_cons_self
  exact (decodeInstruction_of_mem hmem (opcodeOf_encode i)).trans (congrArg Except.ok hf)

/-- Settles O1: in each format, each field of the encoding holds the operand that the catalogue's entry reads there. -/
theorem decodeOfEncode : Obligations.DecodeOfEncode := by
  intro i hwf
  cases i with
  | nop | cli | sti | iret | ret => exact decodeInstruction_encode_of_lookup rfl rfl
  | mov a b | movLoad a b | movStore a b | cmp a b =>
    exact decodeInstruction_encode_of_lookup rfl (by
      simp only [fieldA_encode, fieldB_encode, Instr.operandBits, twoOperands_first, twoOperands_second, regOfBits_regBits])
  | add a b c | sub a b c | or a b c | and a b c | xor a b c =>
    exact decodeInstruction_encode_of_lookup rfl (by
      simp only [fieldA_encode, fieldB_encode, fieldC_encode, Instr.operandBits, threeOperands_first, threeOperands_second,
        threeOperands_third, regOfBits_regBits])
  | push a | pop a | not a | inc a | dec a | neg a | jmp a | call a =>
    exact decodeInstruction_encode_of_lookup rfl (by
      simp only [fieldA_encode, Instr.operandBits, byteOperands_high, regOfBits_regBits])
  | movl a k | movh a k =>
    exact decodeInstruction_encode_of_lookup rfl (by
      simp only [fieldA_encode, fieldImm_encode, Instr.operandBits, byteOperands_high, byteOperands_low, regOfBits_regBits])
  | int k => exact decodeInstruction_encode_of_lookup rfl (by simp only [fieldImm_encode, Instr.operandBits, byteOperands_low])
  | jr d | callr d =>
    have hd : displacementFits d := hwf d rfl
    exact decodeInstruction_encode_of_lookup rfl (by
      simp only [fieldDisp_encode, Instr.operandBits, byteOperands_low, toInt_dispBits hd])
  | brc d | brnc d | bro d | brno d | brz d | brnz d | brs d | brns d =>
    have hd : displacementFits d := hwf d rfl
    refine decodeInstruction_encode_of_lookup rfl ?_
    simp only [fieldDisp_encode, extractLsb'_encode _ (show 8 + 3 ≤ 11 by decide), Instr.operandBits, byteOperands_high,
      byteOperands_low, toInt_dispBits hd]
    rfl

/-! ### Encoding what a word decodes to -/

theorem opcode_branchOfCond (c : BitVec 3) (d : Int) : (branchOfCond c d).opcode = 0b11110 := by
  unfold branchOfCond
  split <;> rfl

theorem displacement_branchOfCond (c : BitVec 3) (d : Int) : (branchOfCond c d).displacement = some d := by
  unfold branchOfCond
  split <;> rfl

theorem usedBits_branchOfCond (c : BitVec 3) (d : Int) : (branchOfCond c d).usedBits = 0xFFFF := by
  unfold branchOfCond
  split <;> rfl

/-- A conditional branch carries its condition number and its displacement (R117, R122). -/
theorem operandBits_branchOfCond (c : BitVec 3) (d : Int) : (branchOfCond c d).operandBits = c ++ dispBits d := by
  have hc : c = 0 ∨ c = 1 ∨ c = 2 ∨ c = 3 ∨ c = 4 ∨ c = 5 ∨ c = 6 ∨ c = 7 := by revert c; decide
  rcases hc with rfl | rfl | rfl | rfl | rfl | rfl | rfl | rfl <;> rfl

/-- An entry's reading of a word has the entry's opcode (R118). -/
theorem opcode_of_catalogue (w : Word) : ∀ e ∈ catalogue, (e.2 w).opcode = e.1 := by
  simp only [catalogue, List.forall_mem_cons, opcode_branchOfCond]
  simp [Instr.opcode]

/-- The displacement of a catalogue instruction is that of its word (R116, R117). -/
theorem displacement_of_catalogue (w : Word) : ∀ e ∈ catalogue, ∀ d ∈ (e.2 w).displacement, d = fieldDisp w := by
  simp only [catalogue, List.forall_mem_cons, displacement_branchOfCond]
  simp [Instr.displacement]

/-- Which bits an instruction uses is decided by its catalogue entry, not by its operands (R109). -/
theorem usedBits_of_catalogue (v w : Word) : ∀ e ∈ catalogue, (e.2 v).usedBits = (e.2 w).usedBits := by
  simp only [catalogue, List.forall_mem_cons, usedBits_branchOfCond]
  simp [Instr.usedBits]

/-! ### The operand field of a word, cut as each format cuts it -/

/-- A run of bits is its upper part before its lower part. -/
theorem extractLsb'_add_eq_append {n : Nat} (x : BitVec n) (start high low : Nat) :
    x.extractLsb' start (high + low) = x.extractLsb' (start + low) high ++ x.extractLsb' start low :=
  (BitVec.extractLsb'_append_extractLsb'_eq_extractLsb' rfl).symm

section
variable (w : Word)

theorem operandField_eq_highAndByte : w.extractLsb' 0 11 = w.extractLsb' 8 3 ++ fieldImm w :=
  extractLsb'_add_eq_append w 0 3 8

theorem operandField_eq_twoRegisters : w.extractLsb' 0 11 = w.extractLsb' 8 3 ++ w.extractLsb' 5 3 ++ w.extractLsb' 0 5 :=
  (extractLsb'_add_eq_append w 0 6 5).trans (congrArg (· ++ w.extractLsb' 0 5) (extractLsb'_add_eq_append w 5 3 3))

theorem operandField_eq_threeRegisters :
    w.extractLsb' 0 11 = w.extractLsb' 8 3 ++ w.extractLsb' 5 3 ++ w.extractLsb' 2 3 ++ w.extractLsb' 0 2 :=
  (extractLsb'_add_eq_append w 0 9 2).trans <| congrArg (· ++ w.extractLsb' 0 2) <|
    (extractLsb'_add_eq_append w 2 6 3).trans (congrArg (· ++ w.extractLsb' 2 3) (extractLsb'_add_eq_append w 5 3 3))

theorem regBits_fieldA : regBits (fieldA w) = w.extractLsb' 8 3 := regBits_regOfBits _
theorem regBits_fieldB : regBits (fieldB w) = w.extractLsb' 5 3 := regBits_regOfBits _
theorem regBits_fieldC : regBits (fieldC w) = w.extractLsb' 2 3 := regBits_regOfBits _
theorem dispBits_fieldDisp : dispBits (fieldDisp w) = fieldImm w := dispBits_toInt _

/-- One register number under its mask (R113). -/
theorem mask_oneRegister : w.extractLsb' 0 11 &&& 0b11100000000#11 = regBits (fieldA w) ++ 0#8 := by
  rw [operandField_eq_highAndByte, regBits_fieldA, show 0b11100000000#11 = BitVec.allOnes 3 ++ 0#8 by decide,
    BitVec.and_append, BitVec.and_allOnes, BitVec.and_zero]

/-- A byte without a register under its mask (R115, R116). -/
theorem mask_byte : w.extractLsb' 0 11 &&& 0b00011111111#11 = 0#3 ++ fieldImm w := by
  rw [operandField_eq_highAndByte, show 0b00011111111#11 = 0#3 ++ BitVec.allOnes 8 by decide,
    BitVec.and_append, BitVec.and_allOnes, BitVec.and_zero]

/-- A register number or a condition, and a byte, fill the operand bits (R112, R117). -/
theorem mask_highAndByte : w.extractLsb' 0 11 &&& 0b11111111111#11 = w.extractLsb' 8 3 ++ fieldImm w := by
  rw [show 0b11111111111#11 = BitVec.allOnes 11 by decide, BitVec.and_allOnes, operandField_eq_highAndByte]

/-- Two register numbers under their mask (R111). -/
theorem mask_twoRegisters :
    w.extractLsb' 0 11 &&& 0b11111100000#11 = regBits (fieldA w) ++ regBits (fieldB w) ++ 0#5 := by
  rw [operandField_eq_twoRegisters, regBits_fieldA, regBits_fieldB,
    show 0b11111100000#11 = BitVec.allOnes 3 ++ BitVec.allOnes 3 ++ 0#5 by decide,
    BitVec.and_append, BitVec.and_append, BitVec.and_allOnes, BitVec.and_allOnes, BitVec.and_zero]

/-- Three register numbers under their mask (R114). -/
theorem mask_threeRegisters :
    w.extractLsb' 0 11 &&& 0b11111111100#11 = regBits (fieldA w) ++ regBits (fieldB w) ++ regBits (fieldC w) ++ 0#2 := by
  rw [operandField_eq_threeRegisters, regBits_fieldA, regBits_fieldB, regBits_fieldC,
    show 0b11111111100#11 = BitVec.allOnes 3 ++ BitVec.allOnes 3 ++ BitVec.allOnes 3 ++ 0#2 by decide,
    BitVec.and_append, BitVec.and_append, BitVec.and_append,
    BitVec.and_allOnes, BitVec.and_allOnes, BitVec.and_allOnes, BitVec.and_zero]

end

/-- The operands that an entry reads are the word's operand bits under the mask of the entry's format (R110 to R117). -/
theorem operandBits_of_catalogue (w : Word) :
    ∀ e ∈ catalogue, (e.2 w).operandBits = w.extractLsb' 0 11 &&& (e.2 w).usedBits.extractLsb' 0 11 := by
  simp only [catalogue, List.forall_mem_cons, operandBits_branchOfCond, usedBits_branchOfCond]
  simp [Instr.operandBits, Instr.usedBits, mask_oneRegister, mask_byte, mask_highAndByte, mask_twoRegisters, mask_threeRegisters,
    dispBits_fieldDisp, regBits_fieldA]

/-- Every format uses the opcode's bits (R109). -/
theorem opcodeOf_usedBits (i : Instr) : opcodeOf i.usedBits = BitVec.allOnes 5 := by
  unfold Instr.usedBits
  split <;> rfl

theorem opcodeOf_and_usedBits (w : Word) (i : Instr) : opcodeOf (w &&& i.usedBits) = opcodeOf w := by
  have hused := opcodeOf_usedBits i
  unfold opcodeOf at hused ⊢
  rw [BitVec.extractLsb'_and, hused, BitVec.and_allOnes]

theorem word_eq_opcode_append (w : Word) : w = opcodeOf w ++ w.extractLsb' 0 11 :=
  BitVec.extractLsb'_eq_self.symm.trans (extractLsb'_add_eq_append w 0 5 11)

/-- Settles O2: opcode and operand bits of the entry's reading are the word's, the ignored bits masked away. -/
theorem reencodeKeepsUsedBits : Obligations.ReencodeKeepsUsedBits := by
  intro w i hd
  obtain ⟨e, he, ho, rfl⟩ := decodeInstruction_eq_ok hd
  constructor
  · intro d hdisp
    rw [displacement_of_catalogue w e he d hdisp]
    exact displacementFits_toInt _
  · rw [encode, opcode_of_catalogue w e he, ← ho, operandBits_of_catalogue w e he, word_eq_opcode_append (w &&& _),
      opcodeOf_and_usedBits, BitVec.extractLsb'_and]

/-- Settles O3: the same entry reads the other word as an instruction with the same encoding, which decodes to one
instruction only. -/
theorem ignoredBitsDoNotMatter : Obligations.IgnoredBitsDoNotMatter := by
  intro w v i hd hagree
  obtain ⟨e, he, ho, rfl⟩ := decodeInstruction_eq_ok hd
  have hopcode : opcodeOf v = e.1 := by rw [← opcodeOf_and_usedBits v, hagree, opcodeOf_and_usedBits, ho]
  have hdv : decodeInstruction v = .ok (e.2 v) := decodeInstruction_of_mem he hopcode
  obtain ⟨hwfv, hencv⟩ := reencodeKeepsUsedBits v _ hdv
  obtain ⟨hwfw, hencw⟩ := reencodeKeepsUsedBits w _ hd
  have hsame : encode (e.2 v) = encode (e.2 w) := by rw [hencv, hencw, usedBits_of_catalogue v w e he, hagree]
  calc decodeInstruction v = .ok (e.2 v) := hdv
    _ = decodeInstruction (encode (e.2 v)) := (decodeOfEncode _ hwfv).symm
    _ = decodeInstruction (encode (e.2 w)) := by rw [hsame]
    _ = .ok (e.2 w) := decodeOfEncode _ hwfw

/-- Settles O5: the words are closed, and decoding them evaluates. -/
theorem sampleWordsDecode : Obligations.SampleWordsDecode := ⟨rfl, rfl, rfl, rfl, rfl, rfl, rfl⟩

end Sys2Proof.Machine
end

section
/-! PROOFS. The fetch's second and third pulse (43_microcode_store.md R253, R254): the word read at PC, and the error of a
word without a meaning (R127, R402). -/

namespace Sys2Proof.Machine

/-- The fetch's second pulse, the third not yet run: the word read at PC is in MDR (R253). -/
def State.fetchRead (s : State) (w : Word) (ds : List Device) : State := { s.fetching with mdr := w, devices := ds }

theorem pulse_fetchArmed_mapped {s : State} {w : Word} {ds : List Device} (hb : Boundary s)
    (hpc : s.getPos s.pc.toNat = some (w, ds)) : pulse s.fetchArmed = .next (s.fetchRead w ds) := by
  have harmed : s.fetchArmed.runsToFin := hb.mode
  have hstored : storedStep 1 = [.sig .tmpsIb, .sig .ibPc] := by decide
  have hquiet : ({ s.fetchRead w ds with memMode := .idle, memCnt := 0 } : State) = s.fetchRead w ds := by
    rw [← hb.quiet.idle, ← hb.quiet.count]
    rfl
  rw [pulse_eq_pulseWith harmed, show s.fetchArmed.upc = 1 from rfl, hstored, ← hquiet]
  refine (pulse_reading (w := w) (ds := ds) rfl ?_ rfl rfl rfl rfl ?_ ?_).trans rfl
  · exact hb.mode
  · exact hb.quiet.devices
  · exact hpc

/-- A step with `ib-ir` that leaves IR without a meaning stops the clock before the memory tick, with `upc` and `cur` as they
were (R290, R402). -/
theorem pulseWith_undecodable {field : Placeholder → Option Reg} {S : MicroStep} {s t : State}
    (he : execTokens field S s.clearCarry = .next t) (hm : t.runsToFin) (hf : S.any Token.isFin = false)
    (hi : S.any Token.isIbIr = true) (hd : decodeInstruction t.ir = .error .badInstruction) :
    pulseWith field S s = .fault (.badInstruction { t with stepCount := t.stepCount + 1 }.halt) := by
  simp [pulseWith, he, sequenceStep, State.runsToFin_ne_manual hm, hf, hi, decodeAndDispatch, hd]

/-- The fetch's third pulse where the word read has no meaning: the error comes after its signals (R254, R402). -/
theorem pulse_fetchRead_undecodable {s : State} {w : Word} {ds : List Device} (hm : s.runsToFin)
    (hw : decodeInstruction w = .error .badInstruction) :
    pulse (s.fetchRead w ds) = .fault (.badInstruction
      { s.fetching with ir := w, mdr := w, ib := w, devices := ds, stepCount := s.stepCount + 3, running := false }) := by
  have hread : (s.fetchRead w ds).runsToFin := hm
  have hstored : storedStep 2 = [.sig .mdrIb, .sig .ibIr] := by decide
  rw [pulse_eq_pulseWith hread, show (s.fetchRead w ds).upc = 2 from rfl, hstored]
  refine (pulseWith_undecodable rfl ?_ rfl rfl ?_).trans rfl
  · exact hm
  · exact hw

/-- Settles O9: the first two pulses read the word, and the third one moves it to IR and meets the error. -/
theorem fetchOfReservedOpcode : Obligations.FetchOfReservedOpcode := by
  intro s w ds hb hpc hw
  have hstart : Boundary s.start := ⟨⟨hb.quiet.idle, hb.quiet.count, hb.quiet.devices⟩, hb.upc, hb.mode⟩
  rw [step_of_runsToFin hb.mode, if_pos hb.upc, fetch, pulse_fetchArmed hstart, andThen_next,
    pulse_fetchArmed_mapped hstart hpc, andThen_next, pulse_fetchRead_undecodable hstart.mode hw]
  rfl

end Sys2Proof.Machine
end

section
/-! PROOFS. The ALU's operations for every ALU state (40_alu_ops.md R141 to R147): what each latches, its flags from the result, the
carry and the overflow as conditions on the operands. -/

namespace Sys2Proof.Machine

/-! ### Latches, zero and sign -/

@[simp] theorem aluAdd_a (a b : Word) (x : Alu) : (aluAdd a b x).a = a := rfl
@[simp] theorem aluAdd_b (a b : Word) (x : Alu) : (aluAdd a b x).b = b := rfl

theorem msb_eq_getLsbD_fifteen (r : Word) : r.msb = r.getLsbD 15 := BitVec.msb_eq_getLsbD_last r

/-- What every operation leaves, with its flags as statements about the result's bits (R140). -/
theorem aluLatch_eq_update (a b r : Word) (x : Alu) :
    aluLatch a b r x = { x with a := a, b := b, result := r, zf := decide (r = 0), sf := r.getLsbD 15 } := by
  rw [aluLatch, msb_eq_getLsbD_fifteen, beq_eq_decide]

theorem aluAdd_zf (a b : Word) (x : Alu) : (aluAdd a b x).zf = decide ((aluAdd a b x).result = 0) := beq_eq_decide _ _

theorem aluAdd_sf (a b : Word) (x : Alu) : (aluAdd a b x).sf = (aluAdd a b x).result.getLsbD 15 :=
  msb_eq_getLsbD_fifteen _

/-- Settles O48: the three operations are latches of the bitwise results. -/
theorem aluLogic : Obligations.AluLogic := by
  intro a b x
  exact ⟨aluLatch_eq_update a b _ x, aluLatch_eq_update a b _ x, aluLatch_eq_update a b _ x⟩

/-! ### Addition -/

theorem positive_eq_decide (x : Word) : positive x = decide (0 ≤ x.toInt) := by
  rw [positive, BitVec.msb_eq_toInt, Bool.eq_iff_iff]
  simp

/-- The signed value of a sum of 16 bits is the exact signed sum wrapped around. -/
theorem toInt_ofNat_sum (a b : Word) (c : Nat) :
    (BitVec.ofNat 16 (a.toNat + b.toNat + c)).toInt = (a.toInt + b.toInt + c).bmod (2 ^ 16) := by
  rw [BitVec.ofNat_add, BitVec.ofNat_add, BitVec.ofNat_toNat, BitVec.ofNat_toNat, BitVec.setWidth_eq, BitVec.setWidth_eq,
    BitVec.toInt_add, BitVec.toInt_add, BitVec.toInt_ofNat', Int.bmod_add_bmod, Int.add_bmod_bmod]

/-- The overflow test of `add`, carry included, is the signed sum outside the range of a word: two operands of one sign wrap to the
other sign, and operands of two signs never leave the range (R141). -/
theorem addOverflow_ofNat_sum (a b : Word) (c : Bool) :
    addOverflow a b (BitVec.ofNat 16 (a.toNat + b.toNat + c.toNat))
      = decide (a.toInt + b.toInt + c.toNat < -32768 ∨ 32767 < a.toInt + b.toInt + c.toNat) := by
  have hc := c.toNat_le
  have ha := a.toInt_lt
  have hb := b.toInt_lt
  have ha' := a.le_toInt
  have hb' := b.le_toInt
  rw [Bool.eq_iff_iff]
  simp only [addOverflow, positive_eq_decide, toInt_ofNat_sum, Int.bmod_def, Bool.or_eq_true,
    Bool.and_eq_true, Bool.not_eq_true', decide_eq_true_eq, decide_eq_false_iff_not]
  omega

/-- Settles O46: the sum is the latched result's, and the overflow test is the signed one. -/
theorem aluAddition : Obligations.AluAddition := by
  intro a b x
  exact ⟨aluAdd_a a b x, aluAdd_b a b x, aluAdd_carryIn a b x, BitVec.toNat_ofNat _ _, rfl,
    addOverflow_ofNat_sum a b x.carryIn, aluAdd_zf a b x, aluAdd_sf a b x⟩

/-! ### Subtraction -/

/-- Subtraction in closed form for every carry input, which it neither uses nor changes (R142). -/
theorem aluSub_eq_aluOf (rule : SubCarryRule) (a b : Word) (x : Alu) :
    aluSub rule a b x =
      { aluOf a b (a - b) (subCarry rule a b) (a.ssubOverflow b) with carryIn := x.carryIn } :=
  congrArg (fun y : Alu => { y with carryIn := x.carryIn }) (aluSub_eq rule a b { x with carryIn := false } rfl)

/-- Signed overflow of the difference as the statements write it: outside the range of a word. -/
theorem ssubOverflow_eq_decide (a b : Word) :
    a.ssubOverflow b = decide (a.toInt - b.toInt < -32768 ∨ 32767 < a.toInt - b.toInt) := by
  rw [Bool.eq_iff_iff]
  simp only [BitVec.ssubOverflow, Bool.or_eq_true, decide_eq_true_eq]
  omega

/-- The raw sum of `sub` is the difference modulo a word. -/
theorem ofNat_subRaw (a b : Word) : BitVec.ofNat 16 (a.toNat + (b ^^^ 0xFFFF).toNat + 1) = a - b :=
  congrArg Alu.result (aluSub_eq .borrow a b Alu.reset rfl)

/-- Under the rule `bit15_of_raw` the carry is the sign of the result (R147). -/
theorem subCarry_bit15OfRaw (a b : Word) : subCarry .bit15OfRaw a b = (a - b).msb := by
  rw [← ofNat_subRaw, msb_eq_getLsbD_fifteen, BitVec.getLsbD_ofNat]
  rfl

/-- Under the rule `borrow` the carry is decided by the top bits: where they are equal by the sign of the difference, and
elsewhere by which operand has the bit (R147). -/
theorem subCarry_borrow (a b : Word) :
    subCarry .borrow a b = if a.msb = b.msb then (a - b).msb else b.msb := by
  simp only [subCarry, BitVec.msb_eq_decide, decide_eq_decide, BitVec.toNat_sub]
  split <;> rw [decide_eq_decide] <;> omega

/-- Where the top bits differ the two carry rules agree exactly when the result's sign is the second operand's, which is overflow. -/
theorem subCarry_agree_iff (a b : Word) :
    subCarry .bit15OfRaw a b = subCarry .borrow a b ↔ a.getLsbD 15 = b.getLsbD 15 ∨ a.ssubOverflow b = true := by
  rw [← msb_eq_getLsbD_fifteen, ← msb_eq_getLsbD_fifteen, subCarry_bit15OfRaw, subCarry_borrow, BitVec.ssubOverflow_eq]
  cases a.msb <;> cases b.msb <;> simp

/-- Settles O47: the closed form of `sub`, its overflow as a range, and its two carries by the sign of the difference. -/
theorem aluSubtraction : Obligations.AluSubtraction := by
  intro a b x rule
  rw [aluSub_eq_aluOf]
  refine ⟨rfl, rfl, rfl, rfl, ssubOverflow_eq_decide a b, beq_eq_decide _ _, msb_eq_getLsbD_fifteen _, ?_,
    subCarry_agree_iff a b⟩
  cases rule with
  | bit15OfRaw => exact subCarry_bit15OfRaw a b
  | borrow => rfl

end Sys2Proof.Machine
end

section
/-! PROOFS. The interrupt-service block up to its acknowledge (43_microcode_store.md R256): the push of SR, and the error of `inta`
where no device requests any more (41_signals.md R192; 60_exceptions.md R405). -/

namespace Sys2Proof.Machine

section
variable {field : Placeholder → Option Reg} {S : MicroStep} {s : State} {rest : Microprogram}

/-! ### A push -/

/-- What pushing the word `v` leaves, the write at the decremented stack pointer having answered `r` (R261). -/
def State.afterPush (s : State) (v : Word) (r : Memory × List Device) : State :=
  { (s.withMemory r).pushed with mdr := v, ib := v, upc := s.upc + 4, stepCount := s.stepCount + 4 }

/-- Storing at the address that *push-address* left in a quiet state is the push: the store changes no more than the memory, MDR
and IB. -/
theorem afterStore_pushed {v : Word} {r : Memory × List Device} (hq : Quiet s) :
    afterStore { s.pushed with ib := s.reg spReg - 1, upc := s.upc + 1 + 1, stepCount := s.stepCount + 1 + 1 } v r =
      s.afterPush v r := by
  have hupc : s.upc + 1 + 1 + 1 + 1 = s.upc + 4 := by
    rw [add_assoc, add_assoc, add_assoc]
    rfl
  simp only [afterStore, State.afterPush, hupc, ← hq.idle, ← hq.count]
  rfl

theorem afterPush_quiet {a : Nat} {v : Word} {r : Memory × List Device} (hq : Quiet s) (hr : s.setPos a v = some r) :
    Quiet (s.afterPush v r) :=
  ⟨hq.idle, hq.count, State.setPos_quiet hr hq.devices⟩

theorem execToken_srIb {u : State} (h : u.sr = s.sr) :
    execToken field (.sig .srIb) u = .next { u with ib := s.sr.setWidth 16 } :=
  h ▸ rfl

/-- *push-address* and the store of SR push SR where the address is mapped (R256, R376). -/
theorem runSteps_pushSr {r : Memory × List Device} (hq : Quiet s) (hm : s.runsToFin)
    (hr : s.setPos (s.reg spReg - 1).toNat (s.sr.setWidth 16) = some r) :
    runSteps field (pushAddress ++ (storeSr ++ rest)) s = runSteps field rest (s.afterPush (s.sr.setWidth 16) r) := by
  rw [runSteps_pushAddress hq hm, ← afterStore_pushed hq]
  refine runSteps_store (S := .sig .srIb) ?_ ?_ ?_ rfl rfl ?_
  · exact hq.of_eq rfl rfl rfl
  · exact hm
  · exact fun _ _ _ hsr => execToken_srIb hsr
  · exact hr

/-! ### The acknowledge without a device -/

theorem acknowledge_none (h : nextInt s.devices = none) : acknowledge s = .fault (.noPendingDevice s.halt) := by
  simp [acknowledge, h]

/-- An error of a step's signals ends the pulse: no sequencing, no ticks (R287, R296). -/
theorem pulseWith_tokens_fault {e : Fault} (h : execTokens field S s.clearCarry = .fault e) : pulseWith field S s = .fault e := by
  simp [pulseWith, h]

/-- The step that stores PC and acknowledges, where no device requests: PC is in MDR and the write is armed, with no tick yet
(R192, R256, R405). -/
theorem pulseWith_inta_none (hi : s.memMode = .idle) (hn : nextInt s.devices = none) :
    pulseWith field [.sig .pcIb, .sig .ibMdr, .sig .write, .sig .inta] s =
      .fault (.noPendingDevice
        { s.clearCarry with mdr := s.pc, ib := s.pc, memMode := .write, memCnt := 0, running := false }) := by
  refine pulseWith_tokens_fault ?_
  simp only [execTokens, execToken, Token.resolve, execSignal, andThen_next]
  rw [arm_idle (by exact hi), andThen_next, acknowledge_none (by exact hn)]
  rfl

end

/-- Settles O44: SR is pushed and the stack pointer decremented again in six pulses, and the seventh meets the error before any
sequencing. -/
theorem interruptBlockWithoutDevice : Obligations.InterruptBlockWithoutDevice := by
  intro s r hq hupc hm hr hn
  have hstart : Quiet s.start := hq.of_eq rfl rfl rfl
  have hpushed : Quiet (s.start.afterPush (s.sr.setWidth 16) r) := afterPush_quiet hstart hr
  have hblock : ({ s.start with upc := intAddress } : State) = s.start := by rw [← hupc]; rfl
  have hnotFetch : s.upc ≠ 0 := by rw [hupc]; decide
  rw [step_of_runsToFin hm, if_neg hnotFetch, if_pos hupc, takeInterrupt, hblock]
  refine (runSteps_pushSr hstart hm hr).trans ((runSteps_pushAddress hpushed hm).trans ?_)
  refine (runSteps_fault (pulseWith_inta_none ?_ ?_)).trans ?_
  · exact hq.idle
  · exact hn
  · have hstop : s.upc + 4 + 1 + 1 = 101 := by rw [hupc]; rfl
    rw [← hstop]
    rfl

end Sys2Proof.Machine
end

section
/-! PROOFS. The signal-set validator (42_validator.md R230 to R245): its rules pass from a set to every part of it (R241), the
canonical order is a sorting along an injective index (R240), and a manual step reads the loaded set through both alone (R242,
R285, R293). -/

namespace Sys2Proof.Machine

/-! ### The decision table -/

/-- Settles O49: the rows are closed, and the nine rules evaluate on each. -/
theorem validatorTable : Obligations.ValidatorTable := by
  unfold Obligations.ValidatorTable
  decide

/-! ### A part of a set -/

section
variable {S T : List Signal} {p : Signal → Bool} (h : S.Sublist T)
include h

theorem countSignals_le_of_sublist : countSignals p S ≤ countSignals p T := (h.filter p).length_le

theorem contains_eq_false_of_sublist {g : Signal} (hg : T.contains g = false) : S.contains g = false := by
  rw [List.contains_eq_mem, decide_eq_false_iff_not] at hg ⊢
  exact fun hS => hg (h.subset hS)

/-- A part with as many tokens of a kind as the whole has the same ones. -/
theorem mem_of_countSignals_eq {g : Signal} (hcount : countSignals p S = countSignals p T) (hp : p g = true) (hg : g ∈ T) :
    g ∈ S := by
  have hfilter : S.filter p = T.filter p := (h.filter p).eq_of_length hcount
  have hT : g ∈ T.filter p := List.mem_filter.mpr ⟨hg, hp⟩
  exact List.mem_of_mem_filter (hfilter ▸ hT)

/-- The form of rules 7 and 9 (R237, R239), at most one token of a kind or two with `G` among them, passes to every part. -/
theorem pairRule_of_sublist {G : List Signal} (hG : ∀ g ∈ G, p g = true)
    (hT : countSignals p T ≤ 1 ∨ (countSignals p T = 2 ∧ ∀ g ∈ G, g ∈ T)) :
    countSignals p S ≤ 1 ∨ (countSignals p S = 2 ∧ ∀ g ∈ G, g ∈ S) := by
  have hle : countSignals p S ≤ countSignals p T := countSignals_le_of_sublist h
  obtain hone | ⟨htwo, hmem⟩ := hT
  · exact .inl (hle.trans hone)
  obtain hone | hS : countSignals p S ≤ 1 ∨ countSignals p S = 2 := by omega
  · exact .inl hone
  · exact .inr ⟨hS, fun g hg => mem_of_countSignals_eq h (hS.trans htwo.symm) (hG g hg) (hmem g hg)⟩

theorem noDuplicate_of_sublist (hT : noDuplicate T = true) : noDuplicate S = true := by
  simp only [noDuplicate, decide_eq_true_eq] at hT ⊢
  exact hT.sublist h

theorem oneDownload_of_sublist (hT : oneDownload T = true) : oneDownload S = true := by
  simp only [oneDownload, decide_eq_true_eq] at hT ⊢
  exact (countSignals_le_of_sublist h).trans hT

theorem oneUploadPerGroup_of_sublist (hT : oneUploadPerGroup T = true) : oneUploadPerGroup S = true := by
  simp only [oneUploadPerGroup, List.all_eq_true, Bool.or_eq_true, decide_eq_true_eq] at hT ⊢
  exact fun g hg => (hT g (h.subset hg)).imp id (countSignals_le_of_sublist h).trans

theorem intaWithoutRead_of_sublist {m : MemMode} (hT : intaWithoutRead m T = true) : intaWithoutRead m S = true := by
  simp only [intaWithoutRead, Bool.or_eq_true, Bool.and_eq_true, Bool.not_eq_true'] at hT ⊢
  exact hT.imp (contains_eq_false_of_sublist h) (And.imp_left (contains_eq_false_of_sublist h))

theorem memoryNotBusy_of_sublist {m : MemMode} (hT : memoryNotBusy m T = true) : memoryNotBusy m S = true := by
  cases m with
  | idle => rfl
  | read =>
    simp only [memoryNotBusy, Bool.and_eq_true, Bool.not_eq_true'] at hT ⊢
    obtain ⟨⟨hread, hwrite⟩, hmar⟩ := hT
    exact ⟨⟨contains_eq_false_of_sublist h hread, contains_eq_false_of_sublist h hwrite⟩,
      contains_eq_false_of_sublist h hmar⟩
  | write =>
    simp only [memoryNotBusy, Bool.and_eq_true, Bool.not_eq_true'] at hT ⊢
    obtain ⟨⟨⟨hread, hwrite⟩, hmar⟩, hmdr⟩ := hT
    exact ⟨⟨⟨contains_eq_false_of_sublist h hread, contains_eq_false_of_sublist h hwrite⟩,
      contains_eq_false_of_sublist h hmar⟩, contains_eq_false_of_sublist h hmdr⟩

theorem srGroupRule_of_sublist (hT : srGroupRule T = true) : srGroupRule S = true := by
  have hpair := pairRule_of_sublist h (p := fun g => g.group == .sr) (G := [.ibSr, .srIb]) (by decide)
  simp only [List.forall_mem_cons, List.not_mem_nil, IsEmpty.forall_iff, implies_true, and_true] at hpair
  simp only [srGroupRule, Bool.or_eq_true, Bool.and_eq_true, decide_eq_true_eq, beq_iff_eq, List.contains_iff_mem,
    and_assoc] at hT ⊢
  exact hpair hT

theorem singleGroups_of_sublist (hT : singleGroups T = true) : singleGroups S = true := by
  simp only [singleGroups, List.all_eq_true, decide_eq_true_eq] at hT ⊢
  exact fun k hk => (countSignals_le_of_sublist h).trans (hT k hk)

theorem aluGroupRule_of_sublist (hT : aluGroupRule T = true) : aluGroupRule S = true := by
  have hpair := pairRule_of_sublist h (p := fun g => g.group == .alu) (G := [.carryIn]) (by decide)
  simp only [List.forall_mem_singleton] at hpair
  simp only [aluGroupRule, Bool.or_eq_true, Bool.and_eq_true, decide_eq_true_eq, beq_iff_eq, List.contains_iff_mem] at hT ⊢
  exact hpair hT

/-- Every part of an accepted set is accepted in the same memory mode: each rule passes to it (R241). -/
theorem validSet_of_sublist {m : MemMode} (hT : validSet m T = true) : validSet m S = true := by
  simp only [validSet, Bool.and_eq_true] at hT ⊢
  obtain ⟨⟨⟨⟨⟨⟨⟨hdup, hdownload⟩, hupload⟩, hinta⟩, hbusy⟩, hsr⟩, hsingle⟩, halu⟩ := hT
  exact ⟨⟨⟨⟨⟨⟨⟨noDuplicate_of_sublist h hdup, oneDownload_of_sublist h hdownload⟩,
    oneUploadPerGroup_of_sublist h hupload⟩, intaWithoutRead_of_sublist h hinta⟩, memoryNotBusy_of_sublist h hbusy⟩, srGroupRule_of_sublist h hsr⟩,
    singleGroups_of_sublist h hsingle⟩, aluGroupRule_of_sublist h halu⟩

end

/-- Settles O50: each rule passes to a part of the set, and none sees the order of the tokens. -/
theorem validatorMonotone : Obligations.ValidatorMonotone :=
  fun _ _ _ => ⟨fun h hT => validSet_of_sublist h hT, validSet_perm⟩

/-! ### The canonical order -/

/-- The catalogue lists every token at its index (R102, R105). -/
theorem allSignals_getElem?_idx (g : Signal) : allSignals[g.idx]? = some g := by
  cases g with
  | regIb n | ibReg n | ibhReg n | iblReg n => revert n; decide
  | _ => rfl

/-- No two tokens share an index, so the canonical order leaves no choice (R102). -/
theorem Signal.idx_injective : Function.Injective Signal.idx := by
  intro g h hidx
  have hsome : some g = some h := by rw [← allSignals_getElem?_idx g, hidx, allSignals_getElem?_idx h]
  exact Option.some.inj hsome

theorem insertByIdx_eq_orderedInsert (g : Signal) (S : List Signal) :
    insertByIdx g S = S.orderedInsert (Signal.idx ⁻¹'o (· ≤ ·)) g := by
  induction S with
  | nil => rfl
  | cons h S ih => rw [insertByIdx, ih]; rfl

/-- The model's ordering is the library's insertion sort along the index (R240). -/
theorem orderSignals_eq_insertionSort (S : List Signal) : orderSignals S = S.insertionSort (Signal.idx ⁻¹'o (· ≤ ·)) := by
  induction S with
  | nil => rfl
  | cons g S ih => rw [orderSignals, ih, insertByIdx_eq_orderedInsert]; rfl

theorem orderSignals_perm (S : List Signal) : (orderSignals S).Perm S := by
  rw [orderSignals_eq_insertionSort]
  exact List.perm_insertionSort _ S

theorem orderSignals_ascending (S : List Signal) : (orderSignals S).Pairwise fun g h => g.idx ≤ h.idx := by
  rw [orderSignals_eq_insertionSort]
  exact List.pairwise_insertionSort (Signal.idx ⁻¹'o (· ≤ ·)) S

/-- Two orders of the same tokens become the same list: both are sorted, and no two tokens share an index. -/
theorem orderSignals_eq_of_perm {S T : List Signal} (h : S.Perm T) : orderSignals S = orderSignals T := by
  have hperm : (orderSignals S).Perm (orderSignals T) := (orderSignals_perm S).trans (h.trans (orderSignals_perm T).symm)
  exact hperm.eq_of_pairwise (fun _ _ _ _ hle hge => Signal.idx_injective (le_antisymm hle hge)) (orderSignals_ascending S)
    (orderSignals_ascending T)

/-- Settles O52: the ordering is a sorting along an injective index. -/
theorem orderIsCanonical : Obligations.OrderIsCanonical :=
  fun S _ => ⟨orderSignals_perm S, orderSignals_ascending S, orderSignals_eq_of_perm⟩

/-! ### The manual step -/

section
variable {field : Placeholder → Option Reg} {s t : State} {M : MicroStep} (T : List Signal)

/-- The manual set is validated again at the start of its step, and put in canonical order (R285). -/
theorem State.stepTokens_manual (hm : s.mode = .manual) :
    s.stepTokens = if validSet s.memMode s.manualSet then some ((orderSignals s.manualSet).map .sig) else none := by
  simp only [State.stepTokens, hm]

/-- A manual step's sequencing counts the step unless it holds `fin`, and empties the set (R293). -/
theorem sequenceStep_manual (hm : s.mode = .manual) :
    sequenceStep M s =
      .next { s with stepCount := if M.any Token.isFin then s.stepCount else s.stepCount + 1, manualSet := [] } := by
  simp [sequenceStep, hm]

/-- No signal that goes on sees the loaded set (R161 to R193). -/
theorem execSignal_setManual {g : Signal} (h : execSignal g s = .next t) :
    execSignal g { s with manualSet := T } = .next { t with manualSet := T } := by
  cases g with
  | read | write => obtain ⟨hidle, rfl⟩ := arm_eq_next h; exact arm_idle hidle
  | inta => obtain ⟨k, hk, rfl⟩ := acknowledge_eq_next h; simp [execSignal, acknowledge, hk]
  | _ => cases h; rfl

theorem execToken_setManual {k : Token} (h : execToken field k s = .next t) :
    execToken field k { s with manualSet := T } = .next { t with manualSet := T } := by
  revert h
  unfold execToken
  cases k.resolve field with
  | some g => exact execSignal_setManual T
  | none => exact nofun

theorem execTokens_setManual (h : execTokens field M s = .next t) :
    execTokens field M { s with manualSet := T } = .next { t with manualSet := T } := by
  induction M generalizing s with
  | nil => cases h; rfl
  | cons k M ih =>
    obtain ⟨u, hu, h⟩ := andThen_eq_next h
    rw [execTokens, execToken_setManual T hu, andThen_next]
    exact ih h

/-- A manual step that goes on ends the same whatever set is loaded besides its tokens: the sequencing empties it (R293). -/
theorem pulseWith_setManual (hm : s.mode = .manual) (h : pulseWith field M s = .next t) :
    pulseWith field M { s with manualSet := T } = .next t := by
  obtain ⟨u, hu, h⟩ := andThen_eq_next h
  have hmode : u.mode = .manual := (execTokens_keepsControl hu).mode.trans hm
  have htokens : execTokens field M ({ s with manualSet := T } : State).clearCarry = .next { u with manualSet := T } :=
    execTokens_setManual T hu
  have hsequence : sequenceStep M { u with manualSet := T } = sequenceStep M u := by
    rw [sequenceStep_manual hmode, sequenceStep_manual (by exact hmode)]
  rw [pulseWith, htokens, andThen_next, hsequence]
  exact h

theorem memTick_manualSet (h : memTick s = .next t) : t.manualSet = s.manualSet := by
  obtain rfl | rfl | ⟨w, ds, -, rfl⟩ | ⟨r, -, rfl⟩ := memTick_eq_next h <;> rfl

theorem deviceTick_manualSet (s : State) (k : Nat) : (deviceTick s k).manualSet = s.manualSet := by
  obtain h | ⟨d, -, ⟨-, h⟩ | ⟨-, h⟩⟩ := deviceTick_spec s k <;> rw [h]

theorem ioTick_manualSet (s : State) : (ioTick s).manualSet = s.manualSet :=
  ioTick_induction (P := fun u => u.manualSet = s.manualSet) (fun u k hu => (deviceTick_manualSet u k).trans hu) rfl

/-- A manual step leaves `upc` and the mode, empties the set and stops the clock (R293, R294). -/
theorem pulseWith_manual (hm : s.mode = .manual) (h : pulseWith field M s = .next t) :
    t.upc = s.upc ∧ t.manualSet = [] ∧ t.running = false ∧ t.mode = .manual := by
  obtain ⟨u, hu, h⟩ := andThen_eq_next h
  obtain ⟨v, hv, h⟩ := andThen_eq_next h
  obtain ⟨x, hx, h⟩ := andThen_eq_next h
  cases h
  have hsu := execTokens_keepsControl hu
  rw [sequenceStep_manual (hsu.mode.trans hm)] at hv
  cases hv
  have hticks := (memTick_keepsDispatch hx).trans (ioTick_keepsDispatch x)
  have hmode : (ioTick x).mode = .manual := hticks.mode.trans (hsu.mode.trans hm)
  have hset : (ioTick x).manualSet = [] := (ioTick_manualSet x).trans (memTick_manualSet hx)
  exact ⟨hticks.upc.trans hsu.upc, hset, by simp [hmode], hmode⟩

end

/-- In mode manual, a step is one pulse: of the loaded set in canonical order, or, where the validator rejects it, of nothing
but the clearing of `carry_in` and the clock (R242, R280, R285). -/
theorem step_manual {s : State} (S : List Signal) (hm : s.mode = .manual) :
    step { s with manualSet := S } =
      if validSet s.memMode S then pulseWith s.curField ((orderSignals S).map .sig) { s.start with manualSet := S }
      else .fault (.signalConflict { s.clearCarry with manualSet := S, running := false }) := by
  have hpulse : step { s with manualSet := S } = pulse { s.start with manualSet := S } :=
    step_eq_pulse (by simp [State.runsToFin, hm])
  have htokens : ({ s.start with manualSet := S } : State).stepTokens =
      if validSet s.memMode S then some ((orderSignals S).map .sig) else none :=
    State.stepTokens_manual hm
  rw [hpulse, pulse, htokens]
  cases validSet s.memMode S <;> rfl

/-- Settles O12: the step sees the loaded set through the validator's verdict and the canonical order, which two orders of the
same tokens share, and the sequencing empties it. -/
theorem manualStepDependsOnTheSet : Obligations.ManualStepDependsOnTheSet := by
  intro s S T hm hperm
  rw [step_manual S hm, step_manual T hm, ← validSet_perm hperm, ← orderSignals_eq_of_perm hperm]
  cases validSet s.memMode S with
  | false => exact ⟨fun _ => rfl, fun t h => nomatch h⟩
  | true => exact ⟨nofun, fun t h =>
      ⟨pulseWith_setManual (s := { s.start with manualSet := S }) T hm h,
        pulseWith_manual (s := { s.start with manualSet := S }) hm h⟩⟩

end Sys2Proof.Machine
end

section
/-! PROOFS. The fetch of a word with a meaning (43_microcode_store.md R252 to R254): the third pulse decodes and dispatches
(44_control_unit.md R290). -/

namespace Sys2Proof.Machine

theorem Boundary.start {s : State} (h : Boundary s) : Boundary s.start :=
  ⟨⟨h.quiet.idle, h.quiet.count, h.quiet.devices⟩, h.upc, h.mode⟩

/-- A step with `ib-ir` that leaves a word with a meaning in IR dispatches it, with no access in progress (R290). -/
theorem pulse_dispatching {field : Placeholder → Option Reg} {S : MicroStep} {s t : State} {i : Instr}
    (he : execTokens field S s.clearCarry = .next t) (hm : t.runsToFin) (hf : S.any Token.isFin = false)
    (hi : S.any Token.isIbIr = true) (hq : t.memMode = .idle) (hd : ∀ d ∈ t.devices, d.intRead = .idle)
    (hdecode : decodeInstruction t.ir = .ok i) :
    pulseWith field S s = .next
      { t with stepCount := t.stepCount + 1, cur := some t.ir, upc := firstAddress (dispatchOpcode i t.sr) } := by
  have hsequence : sequenceStep S t = .next
      { t with stepCount := t.stepCount + 1, cur := some t.ir, upc := firstAddress (dispatchOpcode i t.sr) } := by
    simp [sequenceStep, State.runsToFin_ne_manual hm, hf, hi, decodeAndDispatch, hdecode]
  rw [pulseWith_eq he hsequence (memTick_idle (by exact hq)) hd, State.stopTest_eq]
  exact hm

/-- The fetch's third pulse moves the word to IR and dispatches its instruction (R254, R290). -/
theorem pulse_fetchRead {s : State} {w : Word} {ds : List Device} {i : Instr} (hb : Boundary s)
    (hpc : s.getPos s.pc.toNat = some (w, ds)) (hw : decodeInstruction w = .ok i) :
    pulse (s.fetchRead w ds) = .next (s.fetched w ds i) := by
  have hread : (s.fetchRead w ds).runsToFin := hb.mode
  have hstored : storedStep 2 = [.sig .mdrIb, .sig .ibIr] := by decide
  rw [pulse_eq_pulseWith hread, show (s.fetchRead w ds).upc = 2 from rfl, hstored]
  refine (pulse_dispatching (i := i) rfl ?_ rfl rfl ?_ ?_ ?_).trans rfl
  · exact hb.mode
  · exact hb.quiet.idle
  · exact State.getPos_quiet hpc hb.quiet.devices
  · exact hw

/-- Settles O6: the first pulse arms the read at PC, the second brings the word to MDR, the third dispatches it. -/
theorem fetchReadsOneWord : Obligations.FetchReadsOneWord := by
  intro s w ds i hb hpc hw
  rw [fetch, pulse_fetchArmed hb, andThen_next, pulse_fetchArmed_mapped hb hpc, andThen_next, pulse_fetchRead hb hpc hw]

/-- The state that a fetch leaves is quiet: its read has ended (R74). -/
theorem fetched_quiet {s : State} {w : Word} {ds : List Device} (hq : Quiet s) (hpc : s.getPos s.pc.toNat = some (w, ds))
    (i : Instr) : Quiet (s.fetched w ds i) :=
  ⟨hq.idle, hq.count, State.getPos_quiet hpc hq.devices⟩

end Sys2Proof.Machine
end

section
/-! PROOFS. The stored steps under every choice of registers (43_microcode_store.md R258): the hardest choice for the validator is
the one where all registers are the same, and the catalogue order does not depend on the choice. -/

namespace Sys2Proof.Machine

/-! ### Renaming registers -/

/-- The catalogue token that a store token stands for under a choice of registers (R106). -/
def Token.instantiate (f : Placeholder → Reg) : Token → Signal
  | .sig g => g
  | .phIb p => .regIb (f p)
  | .ibPh p => .ibReg (f p)
  | .ibhPh p => .ibhReg (f p)
  | .iblPh p => .iblReg (f p)

theorem Token.resolve_instantiate (f : Placeholder → Reg) (k : Token) :
    k.resolve (fun p => some (f p)) = some (k.instantiate f) := by
  cases k <;> rfl

/-- The token with `r` in the place of every general register. -/
def Signal.rename (r : Reg) : Signal → Signal
  | .regIb _ => .regIb r
  | .ibReg _ => .ibReg r
  | .ibhReg _ => .ibhReg r
  | .iblReg _ => .iblReg r
  | g => g

/-- The group of `r` in the place of every register's group (R104). -/
def Group.rename (r : Reg) : Group → Group
  | .reg _ => .reg r
  | k => k

/-- Once all registers are `r`, the choice made before does not matter. -/
theorem Token.rename_instantiate (r : Reg) (f : Placeholder → Reg) (k : Token) :
    (k.instantiate f).rename r = (k.instantiate fun _ => r).rename r := by
  cases k <;> rfl

section
variable {r : Reg} {g h j : Signal} {S : List Signal}

theorem Signal.rename_kind : (g.rename r).kind = g.kind := by cases g <;> rfl

theorem Signal.rename_group : (g.rename r).group = g.group.rename r := by cases g <;> rfl

theorem Signal.rename_group_congr (hgroup : g.group = h.group) : (g.rename r).group = (h.rename r).group := by
  rw [Signal.rename_group, Signal.rename_group, hgroup]

theorem Signal.rename_group_eq_iff {k : Group} (hk : ∀ n, k ≠ .reg n) : (g.rename r).group = k ↔ g.group = k := by
  rw [Signal.rename_group]
  cases g.group with
  | reg n => exact ⟨fun he => absurd he.symm (hk r), fun he => absurd he.symm (hk n)⟩
  | _ => rfl

/-- Only a token that names no register is renamed to one. -/
theorem Signal.rename_eq_iff (hj : ∀ n, j.group ≠ .reg n) : g.rename r = j ↔ g = j := by
  cases g with
  | regIb n | ibReg n | ibhReg n | iblReg n =>
    exact ⟨fun he => absurd (congrArg Signal.group he).symm (hj r), fun he => absurd (congrArg Signal.group he).symm (hj n)⟩
  | _ => rfl

theorem contains_rename (hj : ∀ n, j.group ≠ .reg n) : (S.map (Signal.rename r)).contains j = S.contains j := by
  simp [List.contains_eq_mem, Signal.rename_eq_iff hj]

theorem countSignals_map (p : Signal → Bool) (f : Signal → Signal) :
    countSignals p (S.map f) = countSignals (fun g => p (f g)) S := by
  simp [countSignals, List.filter_map, Function.comp_def]

theorem countSignals_mono {p q : Signal → Bool} (hpq : ∀ g, p g = true → q g = true) : countSignals p S ≤ countSignals q S :=
  (List.monotone_filter_right S hpq).length_le

theorem countSignals_kind_rename (k : Kind) :
    countSignals (fun g => g.kind == k) (S.map (Signal.rename r)) = countSignals (fun g => g.kind == k) S := by
  simp only [countSignals_map, Signal.rename_kind]

theorem countSignals_group_rename {k : Group} (hk : ∀ n, k ≠ .reg n) :
    countSignals (fun g => g.group == k) (S.map (Signal.rename r)) = countSignals (fun g => g.group == k) S := by
  simp only [countSignals_map, beq_eq_decide, Signal.rename_group_eq_iff hk]

/-- Uploads of one group stay in one group when the registers are made equal. -/
theorem oneUploadPerGroup_of_rename (h : oneUploadPerGroup (S.map (Signal.rename r)) = true) :
    oneUploadPerGroup S = true := by
  simp only [oneUploadPerGroup, List.all_eq_true, List.forall_mem_map, Bool.or_eq_true, decide_eq_true_eq, countSignals_map,
    Signal.rename_kind] at h ⊢
  refine fun g hg => (h g hg).imp id fun hcount => (countSignals_mono fun j hj => ?_).trans hcount
  simp only [Bool.and_eq_true, beq_iff_eq] at hj ⊢
  exact hj.imp id Signal.rename_group_congr

/-- A set that the validator accepts with all its registers made equal is accepted: distinct registers can only take tokens
apart (R232, R234), and the other rules do not see registers. -/
theorem validSet_of_rename {m : MemMode} (h : validSet m (S.map (Signal.rename r)) = true) : validSet m S = true := by
  have hdownload : oneDownload (S.map (Signal.rename r)) = oneDownload S := by
    simp only [oneDownload, countSignals_kind_rename]
  have hinta : intaWithoutRead m (S.map (Signal.rename r)) = intaWithoutRead m S := by
    simp only [intaWithoutRead, contains_rename (j := .inta) nofun, contains_rename (j := .read) nofun]
  have hbusy : memoryNotBusy m (S.map (Signal.rename r)) = memoryNotBusy m S := by
    simp only [memoryNotBusy, contains_rename (j := .read) nofun, contains_rename (j := .write) nofun,
      contains_rename (j := .ibMar) nofun, contains_rename (j := .ibMdr) nofun]
  have hsr : srGroupRule (S.map (Signal.rename r)) = srGroupRule S := by
    simp only [srGroupRule, countSignals_group_rename (k := .sr) nofun, contains_rename (j := .ibSr) nofun,
      contains_rename (j := .srIb) nofun]
  have hsingle : singleGroups (S.map (Signal.rename r)) = singleGroups S := by
    simp only [singleGroups, List.all_cons, List.all_nil, countSignals_group_rename (k := .ir) nofun,
      countSignals_group_rename (k := .tmpe) nofun, countSignals_group_rename (k := .tmps) nofun,
      countSignals_group_rename (k := .memory) nofun]
  have halu : aluGroupRule (S.map (Signal.rename r)) = aluGroupRule S := by
    simp only [aluGroupRule, countSignals_group_rename (k := .alu) nofun, contains_rename (j := .carryIn) nofun]
  simp only [validSet, hdownload, hinta, hbusy, hsr, hsingle, halu, Bool.and_eq_true] at h ⊢
  obtain ⟨⟨⟨⟨⟨⟨⟨hdup, hd⟩, hupload⟩, hi⟩, hb⟩, hs⟩, hg⟩, ha⟩ := h
  have hdup' : noDuplicate S = true := by
    simp only [noDuplicate, decide_eq_true_eq] at hdup ⊢
    exact hdup.of_map
  exact ⟨⟨⟨⟨⟨⟨⟨hdup', hd⟩, oneUploadPerGroup_of_rename hupload⟩, hi⟩, hb⟩, hs⟩, hg⟩, ha⟩

theorem Signal.idx_le_rename : g.idx ≤ (g.rename 7).idx := by
  cases g with
  | regIb n | ibReg n | ibhReg n | iblReg n => simp only [Signal.idx, Signal.rename]; omega
  | _ => exact Nat.le_refl _

theorem Signal.rename_idx_le : (g.rename 0).idx ≤ g.idx := by
  cases g with
  | regIb n | ibReg n | ibhReg n | iblReg n => simp only [Signal.idx, Signal.rename]; omega
  | _ => exact Nat.le_refl _

end

/-! ### The store -/

/-- A stored step's tokens with `r` for every register, the named ones too. -/
def Token.renamed (r : Reg) (k : Token) : Signal := (k.instantiate fun _ => r).rename r

/-- The steps of the store with all registers equal are accepted in an idle memory (R258 (a)). -/
theorem validSet_renamed_storeSteps : ∀ S ∈ storeSteps, validSet .idle (S.map (Token.renamed spReg)) = true := by decide

/-- In every step of the store the indexes of two tokens ascend even where the earlier one has the highest register and the later
one the lowest (R258 (b)). -/
theorem storeSteps_ascending :
    ∀ S ∈ storeSteps, S.Pairwise fun k j => (k.renamed 7).idx < (j.renamed 0).idx := by decide

theorem length_storeSteps : storeSteps.length = 106 := by decide

theorem storedStep_mem (a : Fin 106) : storedStep a ∈ storeSteps := by
  have ha : a.val < storeSteps.length := by rw [length_storeSteps]; exact a.isLt
  rw [storedStep, List.getD_eq_getElem _ _ ha]
  exact List.getElem_mem ha

/-- Only the fetch's third step loads IR (R258 (d)). -/
theorem storedStep_isIbIr : ∀ a, (storedStep a).any Token.isIbIr = true ↔ a = 2 := by decide

/-- Settles O51: with all registers equal the store is closed, and the validator evaluates on it; other choices are no harder. -/
theorem storedStepsAreValid : Obligations.StoredStepsAreValid := by
  intro upc f
  have hmem := storedStep_mem upc
  have hresolve : (storedStep upc).map (Token.resolve fun p => some (f p)) =
      ((storedStep upc).map (Token.instantiate f)).map some := by
    rw [List.map_map]
    exact List.map_congr_left fun k _ => k.resolve_instantiate f
  have hsignals : (((storedStep upc).map (Token.instantiate f)).map some).filterMap id =
      (storedStep upc).map (Token.instantiate f) := by simp
  dsimp only
  rw [hresolve, hsignals]
  refine ⟨by simp, validSet_of_rename (r := spReg) ?_, List.pairwise_map.mpr ?_, storedStep_isIbIr upc⟩
  · simp only [List.map_map, Function.comp_def, Token.rename_instantiate spReg f]
    exact validSet_renamed_storeSteps _ hmem
  · refine (storeSteps_ascending _ hmem).imp fun {k j} hlt => ?_
    rw [Token.renamed, Token.renamed, ← Token.rename_instantiate 7 f, ← Token.rename_instantiate 0 f] at hlt
    exact Signal.idx_le_rename.trans_lt (hlt.trans_le Signal.rename_idx_le)

end Sys2Proof.Machine
end

section
/-! PROOFS. Where a step ends, and which errors it can meet (43_microcode_store.md R258; 44_control_unit.md R288, R299). -/

namespace Sys2Proof.Machine

/-! ### What the ticks leave alone -/

/-- The mode, the clock, `upc`, the step counter and the ALU are those of before. -/
structure KeepsSequencer (s t : State) : Prop where
  mode : t.mode = s.mode
  running : t.running = s.running
  upc : t.upc = s.upc
  stepCount : t.stepCount = s.stepCount
  alu : t.alu = s.alu

theorem memTick_keepsSequencer {s t : State} (h : memTick s = .next t) : KeepsSequencer s t := by
  obtain rfl | rfl | ⟨w, ds, -, rfl⟩ | ⟨r, -, rfl⟩ := memTick_eq_next h <;> exact ⟨rfl, rfl, rfl, rfl, rfl⟩

theorem deviceTick_keepsSequencer (s : State) (k : Nat) : KeepsSequencer s (deviceTick s k) := by
  obtain h | ⟨d, -, ⟨-, h⟩ | ⟨-, h⟩⟩ := deviceTick_spec s k <;> rw [h] <;> exact ⟨rfl, rfl, rfl, rfl, rfl⟩

theorem KeepsSequencer.trans {s t u : State} (h : KeepsSequencer s t) (k : KeepsSequencer t u) : KeepsSequencer s u :=
  ⟨k.mode.trans h.mode, k.running.trans h.running, k.upc.trans h.upc, k.stepCount.trans h.stepCount, k.alu.trans h.alu⟩

theorem ioTick_keepsSequencer (s : State) : KeepsSequencer s (ioTick s) :=
  ioTick_induction (P := KeepsSequencer s) (fun u k hu => hu.trans (deviceTick_keepsSequencer u k)) ⟨rfl, rfl, rfl, rfl, rfl⟩

section
variable {field : Placeholder → Option Reg} {S : MicroStep} {s t : State}

/-! ### The clock and the carry input -/

theorem execSignal_running {g : Signal} (h : execSignal g s = .next t) : t.running = s.running := by
  cases g with
  | read | write => obtain ⟨-, rfl⟩ := arm_eq_next h; rfl
  | inta => obtain ⟨k, -, rfl⟩ := acknowledge_eq_next h; rfl
  | _ => cases h; rfl

/-- Only `carry-in` sets the carry input (R172). -/
theorem execSignal_carryIn {g : Signal} (hg : g ≠ .carryIn) (h : execSignal g s = .next t) :
    t.alu.carryIn = s.alu.carryIn := by
  cases g with
  | carryIn => exact absurd rfl hg
  | read | write => obtain ⟨-, rfl⟩ := arm_eq_next h; rfl
  | inta => obtain ⟨k, -, rfl⟩ := acknowledge_eq_next h; rfl
  | _ => cases h; rfl

theorem execTokens_running (h : execTokens field S s = .next t) : t.running = s.running :=
  execTokens_induction (P := fun u => u.running = s.running) (fun _ _ _ _ _ _ hv hu => (execSignal_running hv).trans hu) h rfl

theorem execTokens_carryIn (hS : .sig .carryIn ∉ S) (h : execTokens field S s = .next t) :
    t.alu.carryIn = s.alu.carryIn := by
  refine execTokens_induction (P := fun u => u.alu.carryIn = s.alu.carryIn) (fun k hk g hg u v hv hu => ?_) h rfl
  exact (execSignal_carryIn (fun he => hS (he ▸ Token.eq_sig_of_action hg (he ▸ rfl) ▸ hk)) hv).trans hu

/-! ### Pulses -/

theorem sequenceStep_mode (h : sequenceStep S s = .next t) : t.mode = s.mode := by
  obtain ⟨c, rfl⟩ | rfl | ⟨c, a, rfl⟩ | rfl := sequenceStep_eq_next h <;> rfl

/-- A step without `fin` leaves the clock as it is: it advances or dispatches (R289, R290). -/
theorem sequenceStep_running (hm : s.runsToFin) (hf : S.any Token.isFin = false) (h : sequenceStep S s = .next t) :
    t.running = s.running := by
  cases hi : S.any Token.isIbIr with
  | false => rw [sequenceStep_plain hm hf hi] at h; cases h; rfl
  | true =>
    simp only [sequenceStep, State.runsToFin_ne_manual hm, hf, hi, if_true, if_false, Bool.false_eq_true] at h
    unfold decodeAndDispatch at h
    split at h <;> cases h
    rfl

/-- In the modes that run to `fin`, what the sequencing leaves of the sequencer stands to the end of the pulse (R282). -/
theorem pulseWith_eq_next (hm : s.runsToFin) (h : pulseWith field S s = .next t) :
    ∃ u v, execTokens field S s.clearCarry = .next u ∧ sequenceStep S u = .next v ∧ u.mode = s.mode ∧ KeepsSequencer v t := by
  obtain ⟨u, hu, h⟩ := andThen_eq_next h
  obtain ⟨v, hv, h⟩ := andThen_eq_next h
  obtain ⟨x, hx, h⟩ := andThen_eq_next h
  cases h
  have hmode : u.mode = s.mode := (execTokens_keepsControl hu).mode
  have hticks : KeepsSequencer v (ioTick x) := (memTick_keepsSequencer hx).trans (ioTick_keepsSequencer x)
  have hio : (ioTick x).runsToFin := by
    rw [State.runsToFin, hticks.mode, sequenceStep_mode hv, hmode]
    exact hm
  refine ⟨u, v, hu, hv, hmode, ?_⟩
  rw [State.stopTest_eq _ hio]
  exact hticks

/-- A pulse without `fin` keeps the mode and the clock. -/
theorem pulseWith_keepsClock (hm : s.runsToFin) (hf : S.any Token.isFin = false) (h : pulseWith field S s = .next t) :
    t.mode = s.mode ∧ t.running = s.running := by
  obtain ⟨u, v, hu, hv, hmode, ht⟩ := pulseWith_eq_next hm h
  have hmu : u.runsToFin := by rw [State.runsToFin, hmode]; exact hm
  exact ⟨ht.mode.trans ((sequenceStep_mode hv).trans hmode),
    ht.running.trans ((sequenceStep_running hmu hf hv).trans (execTokens_running (s := s.clearCarry) hu))⟩

/-- The end of an instruction in mode `m`: at a boundary or the interrupt block's start, `carry_in` cleared, the clock running on
in mode `auto` only (R284, R288, R299). -/
structure EndedInstruction (m : Mode) (t : State) : Prop where
  upc : t.upc = 0 ∨ t.upc = intAddress
  stepCount : t.stepCount = 0
  carryIn : t.alu.carryIn = false
  mode : t.mode = m
  running : t.running = decide (m = .auto)

theorem endInstruction_ended (hm : s.runsToFin) (hrun : s.running = true) (hc : s.alu.carryIn = false) :
    EndedInstruction s.mode s.endInstruction where
  upc := by
    rw [State.endInstruction_upc]
    cases s.interruptTaken
    · exact .inl rfl
    · exact .inr rfl
  stepCount := rfl
  carryIn := hc
  mode := rfl
  running := by
    rw [State.endInstruction_running, hrun]
    rcases hm with h | h <;> rw [h] <;> rfl

theorem EndedInstruction.of_keepsSequencer {m : Mode} (h : EndedInstruction m s) (k : KeepsSequencer s t) :
    EndedInstruction m t where
  upc := by rw [k.upc]; exact h.upc
  stepCount := k.stepCount.trans h.stepCount
  carryIn := by rw [k.alu]; exact h.carryIn
  mode := k.mode.trans h.mode
  running := k.running.trans h.running

/-- A pulse with `fin` and no `carry-in` ends the instruction. -/
theorem pulseWith_ends (hm : s.runsToFin) (hrun : s.running = true) (hf : S.any Token.isFin = true)
    (hc : .sig .carryIn ∉ S) (h : pulseWith field S s = .next t) : EndedInstruction s.mode t := by
  obtain ⟨u, v, hu, hv, hmode, ht⟩ := pulseWith_eq_next hm h
  have hmu : u.runsToFin := by rw [State.runsToFin, hmode]; exact hm
  have hrunu : u.running = true := (execTokens_running hu).trans hrun
  have hcarry : u.alu.carryIn = false := (execTokens_carryIn hc hu).trans rfl
  rw [sequenceStep_fin hmu hf] at hv
  cases hv
  exact hmode ▸ (endInstruction_ended hmu hrunu hcarry).of_keepsSequencer ht

end

/-! ### The way to `fin` -/

/-- From a store address, a step with `fin` is among the next `n`, whatever instruction a step with `ib-ir` dispatches. -/
def finWithin : Nat → Fin 106 → Bool
  | 0, _ => false
  | n + 1, a =>
    (storedStep a).any Token.isFin ||
      if (storedStep a).any Token.isIbIr then (registered.map Prod.fst).all fun op => finWithin n (firstAddress op)
      else finWithin n (a + 1)

/-- Every store address has a `fin` within the pulses of the longest instruction (R259, R500). -/
theorem finWithin_maxPulses : ∀ a, finWithin maxPulses a = true := by
  have hall : (List.finRange 106).all (finWithin maxPulses) = true := by decide
  exact fun a => List.all_eq_true.mp hall a (List.mem_finRange a)

/-- No step ends the instruction with `carry-in` set (R259). -/
theorem storedStep_fin_carryIn : ∀ a, (storedStep a).any Token.isFin = true → .sig .carryIn ∉ storedStep a := by decide

/-- After a stored step without `fin`, the `fin` is one pulse nearer. -/
theorem pulseWith_finWithin {field : Placeholder → Option Reg} {n : Nat} {s t : State} (hm : s.runsToFin)
    (hf : (storedStep s.upc).any Token.isFin = false) (hn : finWithin (n + 1) s.upc = true)
    (h : pulseWith field (storedStep s.upc) s = .next t) : finWithin n t.upc = true := by
  simp only [finWithin, hf, Bool.false_or] at hn
  cases hi : (storedStep s.upc).any Token.isIbIr with
  | true =>
    rw [hi, if_pos rfl] at hn
    obtain ⟨i, hd⟩ := pulseWith_dispatches hm hf hi h
    rw [hd.upc]
    exact List.all_eq_true.mp hn _ (dispatchOpcode_registered i t.sr)
  | false =>
    rw [hi, if_neg Bool.false_ne_true] at hn
    obtain ⟨-, hupc, -⟩ := pulseWith_advances hm hf hi h
    rw [hupc]
    exact hn

/-- Pulses that reach a `fin` end the instruction (R288, R298). -/
theorem runToFin_ends {n : Nat} {s t : State} (hm : s.runsToFin) (hrun : s.running = true) (hn : finWithin n s.upc = true)
    (h : runToFin n s = .next t) : EndedInstruction s.mode t := by
  induction n generalizing s with
  | zero => cases hn
  | succ n ih =>
    cases hf : (storedStep s.upc).any Token.isFin with
    | true =>
      rw [runToFin_succ_of_fin hf, pulse_eq_pulseWith hm] at h
      exact pulseWith_ends hm hrun hf (storedStep_fin_carryIn _ hf) h
    | false =>
      rw [runToFin_succ_of_not_fin hf, pulse_eq_pulseWith hm] at h
      obtain ⟨u, hu, h⟩ := andThen_eq_next h
      obtain ⟨hmode, hrunu⟩ := pulseWith_keepsClock hm hf hu
      have hmu : u.runsToFin := by rw [State.runsToFin, hmode]; exact hm
      exact hmode ▸ ih hmu (hrunu.trans hrun) (pulseWith_finWithin hm hf hn hu) h

/-! ### The errors of an instruction -/

/-- The token arms an access (R72, R73). -/
def Token.arms : Token → Bool
  | .sig .read | .sig .write => true
  | _ => false

/-- How many accesses a step arms. -/
def armings (S : MicroStep) : Nat := S.countP Token.arms

theorem armings_cons (k : Token) (S : MicroStep) : armings (k :: S) = armings S + if k.arms = true then 1 else 0 :=
  List.countP_cons

theorem Token.arms_iff {k : Token} : k.arms = true ↔ k = .sig .read ∨ k = .sig .write := by
  constructor
  · unfold Token.arms
    split
    · exact fun _ => .inl rfl
    · exact fun _ => .inr rfl
    · exact nofun
  · rintro (rfl | rfl) <;> rfl

theorem armings_eq_zero_iff {S : MicroStep} : armings S = 0 ↔ accessFree S = true := by
  simp only [armings, List.countP_eq_zero, Token.arms_iff, accessFree, Bool.and_eq_true, Bool.not_eq_true',
    List.contains_eq_mem, decide_eq_false_iff_not]
  exact ⟨fun h => ⟨fun hr => h _ hr (.inl rfl), fun hw => h _ hw (.inr rfl)⟩,
    fun ⟨hr, hw⟩ k hk he => he.elim (fun e => hr (e ▸ hk)) fun e => hw (e ▸ hk)⟩

/-- Every access that the program arms finds the memory idle, where `busy` says whether one is in flight at its start: no step
arms two, and the step after an arming step arms none (R74, R258 (c)). -/
def armsWhenIdle : Bool → Microprogram → Bool
  | _, [] => true
  | busy, S :: p =>
    if accessFree S then armsWhenIdle false p else !busy && armings S == 1 && armsWhenIdle true p

theorem armsWhenIdle_programOf : ∀ op ∈ registered.map Prod.fst, armsWhenIdle false (programOf op) = true := by decide

/-- Every placeholder of an instruction's program is a field of the instruction (R106, R286). -/
theorem resolves_programOf (i : Instr) :
    (programOf i.opcode).all (fun S => S.all fun k => (k.resolve i.field).isSome) = true := by
  cases i <;> rfl

theorem resolves_dispatched (i : Instr) (sr : BitVec 5) :
    ∀ S ∈ programOf (dispatchOpcode i sr), ∀ k ∈ S, (k.resolve i.field).isSome = true := by
  obtain hd | hd := dispatchOpcode_cases i sr <;> rw [hd]
  · exact fun S hS k hk => List.all_eq_true.mp (List.all_eq_true.mp (resolves_programOf i) S hS) k hk
  · exact List.forall_mem_singleton.mpr (List.forall_mem_singleton.mpr rfl)

section
variable {field : Placeholder → Option Reg} {S : MicroStep} {s : State} {e : Fault}

/-- Signals go on, but for `inta` without a device and an access to a busy memory (R77, R405). -/
theorem execSignal_total {g : Signal} (hinta : g ≠ .inta) (hidle : s.memMode = .idle ∨ g ≠ .read ∧ g ≠ .write) :
    ∃ t, execSignal g s = .next t := by
  cases g with
  | read | write =>
    obtain h | ⟨hr, hw⟩ := hidle
    · exact ⟨_, arm_idle h⟩
    · simp at hr hw
  | inta => exact absurd rfl hinta
  | _ => exact ⟨_, rfl⟩

/-- The tokens of a step without `inta` go on where each one resolves and the memory is idle for the one access it may arm. -/
theorem execTokens_total (hinta : .sig .inta ∉ S) (hres : ∀ k ∈ S, (k.resolve field).isSome = true)
    (harm : armings S ≤ if s.memMode = .idle then 1 else 0) : ∃ t, execTokens field S s = .next t := by
  induction S generalizing s with
  | nil => exact ⟨s, rfl⟩
  | cons k S ih =>
    obtain ⟨g, hg⟩ := Option.isSome_iff_exists.mp (hres k List.mem_cons_self)
    have hresS := fun j hj => hres j (List.mem_cons_of_mem k hj)
    have hintaS : .sig .inta ∉ S := fun h => hinta (List.mem_cons_of_mem k h)
    have hgi : g ≠ .inta := fun he => hinta (he ▸ Token.eq_sig_of_action hg (he ▸ rfl) ▸ List.mem_cons_self)
    have htoken : ∀ t, execSignal g s = .next t → execTokens field (k :: S) s = execTokens field S t := fun t ht => by
      simp only [execTokens, execToken, hg, ht, andThen_next]
    rw [armings_cons] at harm
    cases hk : k.arms with
    | true =>
      rw [hk, if_pos rfl] at harm
      have hidle : s.memMode = .idle := by by_contra h; simp [h] at harm
      have hnone : armings S = 0 := by rw [if_pos hidle] at harm; omega
      obtain ⟨t, ht⟩ := execSignal_total hgi (.inl hidle)
      rw [htoken t ht]
      exact ih hintaS hresS (hnone.le.trans (Nat.zero_le _))
    | false =>
      rw [hk, if_neg Bool.false_ne_true, Nat.add_zero] at harm
      have hr : g ≠ .read := fun he => by cases he; cases Token.eq_sig_of_action hg rfl; cases hk
      have hw : g ≠ .write := fun he => by cases he; cases Token.eq_sig_of_action hg rfl; cases hk
      obtain ⟨t, ht⟩ := execSignal_total (s := s) hgi (.inr ⟨hr, hw⟩)
      rw [htoken t ht]
      exact ih hintaS hresS ((execSignal_access hr hw ht).1 ▸ harm)

/-- The only error of a memory tick is an unmapped address (R78, R404). -/
theorem memTick_eq_fault (h : memTick s = .fault e) : ∃ t, e = .noModuleOrDevice t := by
  unfold memTick at h
  repeat' split at h
  all_goals cases h
  all_goals exact ⟨_, rfl⟩

/-- An ordinary step's sequencing meets no error: it decodes nothing (R288, R289). -/
theorem sequenceStep_ordinary_total (hm : s.runsToFin) (hS : ordinary S = true) : ∃ t, sequenceStep S s = .next t := by
  cases hf : S.any Token.isFin with
  | true => exact ⟨_, sequenceStep_fin hm hf⟩
  | false => exact ⟨_, sequenceStep_plain hm hf (by simp_all [ordinary])⟩

/-- The only error of an ordinary pulse that finds the memory idle for its access is an unmapped address. -/
theorem pulseWith_ordinary_fault (hm : s.runsToFin) (hS : ordinary S = true)
    (hres : ∀ k ∈ S, (k.resolve field).isSome = true) (harm : armings S ≤ if s.memMode = .idle then 1 else 0)
    (h : pulseWith field S s = .fault e) : ∃ t, e = .noModuleOrDevice t := by
  have hinta : .sig .inta ∉ S := by simp_all [ordinary]
  obtain ⟨u, hu⟩ := execTokens_total (s := s.clearCarry) hinta hres harm
  have hmu : u.runsToFin := by rw [State.runsToFin, (execTokens_keepsControl hu).mode]; exact hm
  obtain ⟨v, hv⟩ := sequenceStep_ordinary_total hmu hS
  rw [pulseWith, hu, andThen_next, hv, andThen_next] at h
  obtain h | ⟨x, -, h⟩ := andThen_eq_fault h
  · exact memTick_eq_fault h
  · cases h

/-- The only error of a run of ordinary steps that arm their accesses in an idle memory is an unmapped address. -/
theorem runSteps_ordinary_fault {p : Microprogram} {busy : Bool} (hs : MidProgram s) (hbusy : busy = false → s.memMode = .idle)
    (hp : ∀ S ∈ p, ordinary S = true) (hres : ∀ S ∈ p, ∀ k ∈ S, (k.resolve field).isSome = true)
    (harms : armsWhenIdle busy p = true) (h : runSteps field p s = .fault e) : ∃ t, e = .noModuleOrDevice t := by
  induction p generalizing s busy with
  | nil => cases h
  | cons S p ih =>
    have hS := hp S List.mem_cons_self
    have hresS := hres S List.mem_cons_self
    have hp' := fun T hT => hp T (List.mem_cons_of_mem S hT)
    have hres' := fun T hT => hres T (List.mem_cons_of_mem S hT)
    unfold armsWhenIdle at harms
    split at harms
    next hfree =>
      obtain h | ⟨u, hu, h⟩ := andThen_eq_fault h
      · exact pulseWith_ordinary_fault hs.mode hS hresS ((armings_eq_zero_iff.mpr hfree).le.trans (Nat.zero_le _)) h
      · have hquiet : Quiet u := pulseWith_quiet hs hS hfree hu
        exact ih (pulseWith_keepsSetup hs hS hu).2 (fun _ => hquiet.idle) hp' hres' harms h
    next =>
      simp only [Bool.and_eq_true, Bool.not_eq_true', beq_iff_eq] at harms
      obtain ⟨⟨hb, hone⟩, harms⟩ := harms
      obtain h | ⟨u, hu, h⟩ := andThen_eq_fault h
      · exact pulseWith_ordinary_fault hs.mode hS hresS (by rw [hone, if_pos (hbusy hb)]) h
      · exact ih (busy := true) (pulseWith_keepsSetup hs hS hu).2 nofun hp' hres' harms h

end

/-- The only error of an instruction's own steps is an unmapped address (R258, R404). -/
theorem exec_fault {i : Instr} {s : State} {e : Fault} (hq : Quiet s) (hm : s.runsToFin) (h : exec i s = .fault e) :
    ∃ t, e = .noModuleOrDevice t := by
  rw [exec_eq_runProgram] at h
  have hreg := dispatchOpcode_registered i s.sr
  have hquiet := hq.enter i (firstAddress (dispatchOpcode i s.sr))
  exact runSteps_ordinary_fault (hquiet.midProgram hm) (fun _ => hquiet.idle) (ordinary_programOf _ hreg)
    (resolves_dispatched i s.sr) (armsWhenIdle_programOf _ hreg) h

/-! ### A step from a boundary -/

/-- A step from a boundary meets an unmapped PC, meets a word without a meaning, or runs an instruction from a quiet state
(R254, R290, R402, R404). -/
theorem step_of_boundary {s : State} (hb : Boundary s) :
    (∃ t, step s = .fault (.noModuleOrDevice t)) ∨ (∃ t, step s = .fault (.badInstruction t))
      ∨ ∃ i u, Quiet u ∧ u.runsToFin ∧ step s = exec i u := by
  cases hpc : s.getPos s.pc.toNat with
  | none => exact .inl ⟨_, fetchFromUnmappedAddress s hb hpc⟩
  | some r =>
    obtain ⟨w, ds⟩ := r
    obtain ⟨e, -, -, hdecode⟩ | ⟨-, hdecode⟩ := decodeInstruction_cases w
    · have hstep : step s = exec (e.2 w) (s.start.fetched w ds (e.2 w)) := by
        rw [step_of_runsToFin hb.mode, if_pos hb.upc, fetchReadsOneWord _ w ds _ hb.start hpc hdecode, andThen_next, execDecoded,
          show (s.start.fetched w ds (e.2 w)).ir = w from rfl, hdecode]
      exact .inr (.inr ⟨_, _, fetched_quiet hb.start.quiet hpc _, hb.mode, hstep⟩)
    · exact .inr (.inl ⟨_, fetchOfReservedOpcode s w ds hb hpc hdecode⟩)

/-- Settles O11: every way from a store address reaches a `fin`; from a boundary, the fetch and the program it dispatches arm each
access in an idle memory and end it. -/
theorem stepEndsAtBoundary : Obligations.StepEndsAtBoundary := by
  intro s hm
  refine ⟨fun t ht => ?_, fun e hb he => ?_⟩
  · have hrun := ht
    rw [stepIsItsPulses s hm] at hrun
    have hend : EndedInstruction s.mode t := runToFin_ends (s := s.start) hm rfl (finWithin_maxPulses _) hrun
    refine ⟨hend.upc, hend.stepCount, hend.carryIn, hend.mode, hend.running, fun hb => ?_⟩
    obtain ⟨_, h⟩ | ⟨_, h⟩ | ⟨i, u, hq, hmu, h⟩ := step_of_boundary hb <;> rw [h] at ht
    · cases ht
    · cases ht
    · exact (exec_keepsSetup hq hmu ht).2
  · obtain ⟨t, h⟩ | ⟨t, h⟩ | ⟨i, u, hq, hmu, h⟩ := step_of_boundary hb <;> rw [h] at he
    · cases he; exact ⟨t, .inr rfl⟩
    · cases he; exact ⟨t, .inl rfl⟩
    · obtain ⟨t, ht⟩ := exec_fault hq hmu he
      exact ⟨t, .inr ht⟩

end Sys2Proof.Machine
end

section
/-! PROOFS. Taking an interrupt (43_microcode_store.md R256; 60_exceptions.md R417): the I/O ticks of one acknowledged device (R427, R434,
R435), and the interrupt-service block from its acknowledge to its `fin`. -/

namespace Sys2Proof.Machine

/-! ### The requesting devices -/

/-- The device that the registry chooses is a requesting one (R426). -/
theorem nextIntFrom_requesting {n k p : Nat} {ds : List Device} (h : nextIntFrom n ds = some (k, p)) :
    ∃ i d, k = n + i ∧ ds[i]? = some d ∧ d.requesting = true := by
  induction ds generalizing n with
  | nil => cases h
  | cons e ds ih =>
    have htail : nextIntFrom (n + 1) ds = some (k, p) → ∃ i d, k = n + i ∧ (e :: ds)[i]? = some d ∧ d.requesting = true := by
      intro h
      obtain ⟨i, d, rfl, hd, hreq⟩ := ih h
      exact ⟨i + 1, d, by omega, by simpa using hd, hreq⟩
    unfold nextIntFrom at h
    split at h
    next =>
      split at h
      next hreq => cases h; exact ⟨0, e, rfl, rfl, hreq⟩
      next => cases h
    next j q hj =>
      split at h <;> cases h
      next hbest => exact ⟨0, e, rfl, rfl, ((Bool.and_eq_true _ _).mp hbest).1⟩
      next => exact htail hj

theorem nextInt_requesting {k : Nat} {d : Device} {ds : List Device} (h : nextInt ds = some k) (hk : ds[k]? = some d) :
    d.requesting = true := by
  obtain ⟨⟨j, p⟩, hj, rfl⟩ := Option.map_eq_some_iff.mp h
  obtain ⟨i, e, hi, he, hreq⟩ := nextIntFrom_requesting hj
  rw [Nat.zero_add] at hi
  subst hi
  cases he.symm.trans hk
  exact hreq

/-- Every requesting device is ticked (R427). -/
theorem mem_requestingFrom {n i : Nat} {d : Device} {ds : List Device} (hi : ds[i]? = some d) (hd : d.requesting = true) :
    n + i ∈ requestingFrom n ds := by
  induction ds generalizing n i with
  | nil => simp at hi
  | cons e ds ih =>
    cases i with
    | zero =>
      obtain rfl : e = d := by simpa using hi
      simp [requestingFrom, hd]
    | succ i =>
      have htail : n + (i + 1) ∈ requestingFrom (n + 1) ds := by
        rw [← Nat.add_assoc, Nat.add_right_comm]
        exact ih (by simpa using hi)
      unfold requestingFrom
      split
      · exact List.mem_cons_of_mem n htail
      · exact htail

theorem le_of_mem_requestingFrom {n j : Nat} {ds : List Device} (h : j ∈ requestingFrom n ds) : n ≤ j := by
  induction ds generalizing n with
  | nil => cases h
  | cons e ds ih =>
    unfold requestingFrom at h
    split at h
    · obtain rfl | h := List.mem_cons.mp h
      · exact Nat.le_refl _
      · exact Nat.le_of_succ_le (ih h)
    · exact Nat.le_of_succ_le (ih h)

/-- No device is ticked twice in one pulse (R427). -/
theorem requestingFrom_nodup {n : Nat} {ds : List Device} : (requestingFrom n ds).Nodup := by
  induction ds generalizing n with
  | nil => exact List.nodup_nil
  | cons e ds ih =>
    unfold requestingFrom
    split
    · exact List.nodup_cons.mpr ⟨fun h => Nat.not_succ_le_self n (le_of_mem_requestingFrom h), ih⟩
    · exact ih

/-! ### The tick of one acknowledged device -/

/-- No device but the one at place `k` is in its interrupt read. -/
def onlyArmed (k : Nat) (ds : List Device) : Prop := ∀ j d, j ≠ k → ds[j]? = some d → d.intRead = .idle

theorem onlyArmed_of_idle {k : Nat} {ds : List Device} (h : ∀ d ∈ ds, d.intRead = .idle) : onlyArmed k ds :=
  fun _ d _ hj => h d (List.mem_of_getElem? hj)

theorem onlyArmed_set {k : Nat} {ds : List Device} (h : onlyArmed k ds) (d : Device) : onlyArmed k (ds.set k d) := by
  intro j e hj he
  rw [List.getElem?_set_ne hj.symm] at he
  exact h j e hj he

section
variable {s t : State} {k : Nat} {d : Device}

theorem deviceTick_of_idle {j : Nat} (h : ∀ e, s.devices[j]? = some e → e.intRead = .idle) : deviceTick s j = s := by
  obtain ht | ⟨e, he, ⟨hr, -⟩ | ⟨hr, -⟩⟩ := deviceTick_spec s j
  · exact ht
  all_goals cases hr.symm.trans (h e he)

theorem foldl_deviceTick_of_onlyArmed {l : List Nat} (h : onlyArmed k s.devices) (hl : k ∉ l) : l.foldl deviceTick s = s := by
  induction l with
  | nil => rfl
  | cons j l ih =>
    obtain ⟨hj, hl⟩ := not_or.mp (mt List.mem_cons.mpr hl)
    rw [List.foldl_cons, deviceTick_of_idle fun e => h j e (Ne.symm hj)]
    exact ih hl

theorem deviceTick_onlyArmed (h : onlyArmed k s.devices) : onlyArmed k (deviceTick s k).devices := by
  obtain ht | ⟨e, -, ⟨-, ht⟩ | ⟨-, ht⟩⟩ := deviceTick_spec s k <;> rw [ht]
  · exact h
  all_goals exact onlyArmed_set h _

/-- Where only one requesting device is armed, the I/O tick is the tick of that device, once (R427). -/
theorem ioTick_of_onlyArmed (hk : s.devices[k]? = some d) (hreq : d.requesting = true) (h : onlyArmed k s.devices) :
    ioTick s = deviceTick s k := by
  have hmem : k ∈ requestingFrom 0 s.devices := Nat.zero_add k ▸ mem_requestingFrom hk hreq
  obtain ⟨l, m, hsplit⟩ := List.append_of_mem hmem
  have hnodup : (l ++ k :: m).Nodup := hsplit ▸ requestingFrom_nodup
  obtain ⟨hl, hm⟩ : k ∉ l ∧ k ∉ m := by
    rw [List.nodup_middle, List.nodup_cons, List.mem_append, not_or] at hnodup
    exact hnodup.1
  rw [ioTick, hsplit, List.foldl_append, List.foldl_cons, foldl_deviceTick_of_onlyArmed h hl,
    foldl_deviceTick_of_onlyArmed (deviceTick_onlyArmed h) hm]

/-- The first tick of an acknowledged device (R435). -/
theorem deviceTick_armed0 (hk : s.devices[k]? = some d) (hd : d.intRead = .armed0) :
    deviceTick s k = { s with devices := s.devices.set k { d with intRead := .armed1 } } := by
  simp [deviceTick, hk, hd]

/-- The second tick brings the vector to MDR and drops the request (R435). -/
theorem deviceTick_armed1 (hk : s.devices[k]? = some d) (hd : d.intRead = .armed1) :
    deviceTick s k =
      { s with
        devices := s.devices.set k { d with intRead := .idle, pending := false }
        mdr := bytes 0 d.vector
        intf := if intDevices (s.devices.set k { d with intRead := .idle, pending := false }) = [] then false else s.intf } := by
  simp [deviceTick, hk, hd]

theorem getElem?_set_of_getElem? {ds : List Device} {e : Device} (hk : ds[k]? = some d) : (ds.set k e)[k]? = some e :=
  List.getElem?_set_self (List.getElem?_eq_some_iff.mp hk).1

section
variable {ds : List Device} (hk : ds[k]? = some d) (hreq : d.requesting = true) (hidle : ∀ e ∈ ds, e.intRead = .idle)
include hk hreq hidle

/-- The I/O tick where only the device at place `k` is armed is that device's tick: an interrupt read does not change what
requests. -/
theorem ioTick_of_armed {r : IntRead} (hs : s.devices = ds.set k { d with intRead := r }) : ioTick s = deviceTick s k := by
  refine ioTick_of_onlyArmed (d := { d with intRead := r }) ?_ hreq ?_
  · rw [hs]; exact getElem?_set_of_getElem? hk
  · rw [hs]; exact onlyArmed_set (onlyArmed_of_idle hidle) _

/-- The I/O tick of the acknowledge's own pulse (R434, R435). -/
theorem ioTick_armed0 (hs : s.devices = ds.set k { d with intRead := .armed0 }) :
    ioTick s = { s with devices := ds.set k { d with intRead := .armed1 } } := by
  have hget : s.devices[k]? = some { d with intRead := .armed0 } := by rw [hs]; exact getElem?_set_of_getElem? hk
  rw [ioTick_of_armed hk hreq hidle hs, deviceTick_armed0 hget rfl, hs, List.set_set]

/-- The I/O tick of the pulse after it: the device, idle again, has dropped its request (R435). -/
theorem ioTick_armed1 (hs : s.devices = ds.set k { d with intRead := .armed1 }) :
    ioTick s =
      { s with
        devices := ds.set k { d with pending := false }
        mdr := bytes 0 d.vector
        intf := if intDevices (ds.set k { d with pending := false }) = [] then false else s.intf } := by
  have hget : s.devices[k]? = some { d with intRead := .armed1 } := by rw [hs]; exact getElem?_set_of_getElem? hk
  have hdropped : ({ d with intRead := .idle, pending := false } : Device) = { d with pending := false } := by
    rw [← hidle d (List.mem_of_getElem? hk)]
  rw [ioTick_of_armed hk hreq hidle hs, deviceTick_armed1 hget rfl, hs, List.set_set]
  simp only [hdropped]

end

/-! ### The acknowledge -/

theorem acknowledge_some (hn : nextInt s.devices = some k) (hk : s.devices[k]? = some d) :
    acknowledge s = .next { s with devices := s.devices.set k { d with intRead := .armed0 } } := by
  simp only [acknowledge, hn, acknowledgeAt, List.modify_eq_set_getElem?, hk]
  rfl

variable {field : Placeholder → Option Reg} {S : MicroStep} {rest : Microprogram}

/-- A step with neither `fin` nor `ib-ir`, whatever the devices are in the middle of. -/
theorem pulse_ticking {u : State} (he : execTokens field S s.clearCarry = .next t) (hm : t.runsToFin)
    (hf : S.any Token.isFin = false) (hi : S.any Token.isIbIr = false) (ht : memTick t.advance = .next u) :
    pulseWith field S s = .next (ioTick u) := by
  have hmode : (ioTick u).mode = t.mode := (ioTick_keepsDispatch u).mode.trans (memTick_keepsDispatch ht).mode
  have hmu : (ioTick u).runsToFin := by rw [State.runsToFin, hmode]; exact hm
  rw [pulseWith, he, andThen_next, sequenceStep_plain hm hf hi, andThen_next, ht, andThen_next, State.stopTest_eq _ hmu]

/-- The second tick of a write stores MDR (R74, R76). -/
theorem memTick_write {r : Memory × List Device} (hi : s.memMode = .write) (hc : s.memCnt = 1)
    (hw : s.setPos s.mar.toNat s.mdr = some r) :
    memTick s = .next { s.withMemory r with memMode := .idle, memCnt := 0 } := by
  simp [memTick, hi, hc, hw]

/-- What storing PC at the address in MAR and acknowledging the device `d` at place `k` leave: the device's vector in MDR, its
request dropped (R256, R435). -/
def State.acknowledged (s : State) (k : Nat) (d : Device) : State :=
  { s with
    ib := s.pc
    mdr := bytes 0 d.vector
    alu := { s.alu with carryIn := false }
    cells := s.cells.write s.cfg.memFill s.mar.toNat s.pc
    devices := s.devices.set k { d with pending := false }
    intf := if intDevices (s.devices.set k { d with pending := false }) = [] then false else s.intf
    memMode := .idle
    memCnt := 0
    upc := s.upc + 1 + 1
    stepCount := s.stepCount + 1 + 1 }

theorem acknowledged_quiet (hq : Quiet s) (hk : s.devices[k]? = some d) : Quiet (s.acknowledged k d) :=
  ⟨rfl, rfl, forall_mem_set hq.devices (hq.devices d (List.mem_of_getElem? hk) :)⟩

/-- Between the acknowledge and the write of PC: the write is armed, and so is the device `d` at place `k` (R434). -/
def State.acknowledging (s : State) (k : Nat) (d : Device) : State :=
  { s with
    ib := s.pc
    mdr := s.pc
    alu := { s.alu with carryIn := false }
    memMode := .write
    memCnt := 1
    devices := s.devices.set k { d with intRead := .armed1 }
    upc := s.upc + 1
    stepCount := s.stepCount + 1 }

/-- The step that stores PC and acknowledges, with the device's first tick (R256, R434). -/
theorem pulse_acknowledging (hq : Quiet s) (hm : s.runsToFin) (hn : nextInt s.devices = some k)
    (hk : s.devices[k]? = some d) :
    pulseWith field [.sig .pcIb, .sig .ibMdr, .sig .write, .sig .inta] s = .next (s.acknowledging k d) := by
  have htokens : execTokens field [.sig .pcIb, .sig .ibMdr, .sig .write, .sig .inta] s.clearCarry = .next
      { s.clearCarry with
        ib := s.pc
        mdr := s.pc
        memMode := .write
        memCnt := 0
        devices := s.devices.set k { d with intRead := .armed0 } } := by
    simp only [execTokens, execToken, Token.resolve, execSignal, andThen_next]
    rw [arm_idle (by exact hq.idle), andThen_next, acknowledge_some (by exact hn) (by exact hk)]
    rfl
  refine (pulse_ticking htokens hm rfl rfl (memTick_first nofun rfl)).trans (congrArg Host.Outcome.next ?_)
  exact ioTick_armed0 hk (nextInt_requesting hn hk) hq.devices rfl

/-- The empty step after it: PC is stored in RAM, and the device's second tick brings its vector (R256, R435). -/
theorem pulse_acknowledged (hq : Quiet s) (hm : s.runsToFin) (hin : s.inModule s.mar.toNat = true)
    (hreq : d.requesting = true) (hk : s.devices[k]? = some d) :
    pulseWith field [] (s.acknowledging k d) = .next (s.acknowledged k d) := by
  have htick : memTick { s.acknowledging k d with upc := s.upc + 1 + 1, stepCount := s.stepCount + 1 + 1 } = .next
      { s.acknowledging k d with
        cells := s.cells.write s.cfg.memFill s.mar.toNat s.pc
        memMode := .idle
        memCnt := 0
        upc := s.upc + 1 + 1
        stepCount := s.stepCount + 1 + 1 } := by
    refine (memTick_write (r := (s.cells.write s.cfg.memFill s.mar.toNat s.pc, _)) rfl rfl ?_).trans rfl
    exact State.setPos_inModule (s := s.acknowledging k d) hin s.pc
  have hpulse := pulse_ticking (field := field) (S := []) (s := s.acknowledging k d) (t := s.acknowledging k d) rfl hm rfl rfl htick
  rw [hpulse, ioTick_armed1 hk hreq hq.devices rfl]
  rfl

/-- The step that drives PC into MDR and arms the write, the acknowledge with it, and the empty step, with the stack in RAM (R256). -/
theorem runSteps_acknowledge (hq : Quiet s) (hm : s.runsToFin) (hin : s.inModule s.mar.toNat = true)
    (hn : nextInt s.devices = some k) (hk : s.devices[k]? = some d) :
    runSteps field ([.sig .pcIb, .sig .ibMdr, .sig .write, .sig .inta] :: [] :: rest) s =
      runSteps field rest (s.acknowledged k d) :=
  runSteps_two (pulse_acknowledging hq hm hn hk) (pulse_acknowledged hq hm hin (nextInt_requesting hn hk) hk)

/-! ### The block -/

theorem State.getPos_inModule {a : Nat} (h : s.inModule a = true) :
    s.getPos a = some (s.cells.read s.cfg.memFill a, s.devices) := by
  simp [State.getPos, h]

/-- The vector's word goes to PC and IF is cleared, MDR holding the vector's address (R256). -/
theorem runSteps_vector {w : Word} {ds : List Device} (hq : Quiet s) (hm : s.runsToFin)
    (hr : s.getPos s.mdr.toNat = some (w, ds)) :
    runSteps field [[.sig .mdrIb, .sig .ibMar, .sig .read], [], [.sig .mdrIb, .sig .ibPc, .sig .cli, .sig .fin]] s =
      .next { s with
        mar := s.mdr
        mdr := w
        ib := w
        pc := w
        devices := ds
        sr := packSr false (srSf s.sr) (srOf s.sr) (srCf s.sr) (srZf s.sr) }.finish := by
  have hfin : pulseWith field [.sig .mdrIb, .sig .ibPc, .sig .cli, .sig .fin] (afterRead s s.mdr w ds) =
      .next { afterRead s s.mdr w ds with ib := w, pc := w, sr := clearIf s.sr }.endInstruction :=
    pulse_fin rfl hm rfl rfl (State.getPos_quiet hr hq.devices)
  refine (runSteps_read (X := .sig .mdrIb) hq hm rfl rfl rfl hr).trans ((runSteps_cons hfin).trans ?_)
  rw [runSteps_nil, clearIf_eq]
  unfold afterRead
  rw [← hq.idle, ← hq.count]
  rfl

/-- The block from its acknowledge to its `fin`, with the stack and the vector's word in RAM (R256). -/
theorem runSteps_serve {w : Word} (hq : Quiet s) (hm : s.runsToFin) (hin : s.inModule s.mar.toNat = true)
    (hinv : s.inModule (bytes 0 d.vector).toNat = true) (hn : nextInt s.devices = some k) (hk : s.devices[k]? = some d)
    (hw : (s.acknowledged k d).cells.read s.cfg.memFill (bytes 0 d.vector).toNat = w) :
    runSteps field
        ([.sig .pcIb, .sig .ibMdr, .sig .write, .sig .inta] :: [] ::
          [[.sig .mdrIb, .sig .ibMar, .sig .read], [], [.sig .mdrIb, .sig .ibPc, .sig .cli, .sig .fin]]) s =
      .next { s.acknowledged k d with
        mar := bytes 0 d.vector
        mdr := w
        ib := w
        pc := w
        sr := packSr false (srSf s.sr) (srOf s.sr) (srCf s.sr) (srZf s.sr) }.finish := by
  have hvector : (s.acknowledged k d).getPos (bytes 0 d.vector).toNat = some (w, (s.acknowledged k d).devices) := by
    rw [State.getPos_inModule (by exact hinv), ← hw]
    rfl
  exact (runSteps_acknowledge hq hm hin hn hk).trans (runSteps_vector (acknowledged_quiet hq hk) hm hvector)

end

/-- The stack pointer after one push. -/
theorem afterPush_reg_spReg (s : State) (v : Word) (r : Memory × List Device) :
    (s.afterPush v r).reg spReg = s.reg spReg - 1 :=
  State.setReg_reg_same (s.withMemory r) spReg (s.reg spReg - 1)

/-- What the push of `v` to RAM and the next *push-address* leave: R7 decremented by 2, and its second value in MAR, TMPS and IB (R256,
R261). -/
def State.pushedTwice (s : State) (v : Word) (m : Memory) : State :=
  let sp1 := s.reg spReg - 1
  let sp2 := s.reg spReg - 2
  { (s.withAlu sp1 0xFFFF sp2 (sp1 != 0) (sp1 == 0x8000)).setReg spReg sp2 with
    tmpe := 0xFFFF
    tmps := sp2
    mar := sp2
    mdr := v
    ib := sp2
    cells := m
    upc := s.upc + 4 + 1 + 1
    stepCount := s.stepCount + 4 + 1 + 1 }

theorem pushed_afterPush (s : State) (v : Word) (m : Memory) :
    { (s.afterPush v (m, s.devices)).pushed with
      ib := (s.afterPush v (m, s.devices)).reg spReg - 1
      upc := (s.afterPush v (m, s.devices)).upc + 1 + 1
      stepCount := (s.afterPush v (m, s.devices)).stepCount + 1 + 1 } = s.pushedTwice v m := by
  have hsp : s.reg spReg - 1 - 1 = s.reg spReg - 2 := by bv_omega
  have hregs : ∀ x, (s.afterPush v (m, s.devices)).regs.set spReg.val x = s.regs.set spReg.val x := fun x =>
    Vector.set_set ..
  simp only [State.pushed, afterPush_reg_spReg, hsp, State.setReg, State.withAlu, hregs, State.pushedTwice]
  rfl

theorem runSteps_pushTwice {field : Placeholder → Option Reg} {s : State} {rest : Microprogram} (hq : Quiet s)
    (hm : s.runsToFin) (hin : s.inModule (s.reg spReg - 1).toNat = true) :
    runSteps field (pushAddress ++ (storeSr ++ (pushAddress ++ rest))) s =
      runSteps field rest
        (s.pushedTwice (s.sr.setWidth 16) (s.cells.write s.cfg.memFill (s.reg spReg - 1).toNat (s.sr.setWidth 16))) := by
  have hset := State.setPos_inModule hin (s.sr.setWidth 16)
  have hpushed := afterPush_quiet (v := s.sr.setWidth 16) hq hset
  rw [runSteps_pushSr hq hm hset, runSteps_pushAddress hpushed hm, pushed_afterPush]

/-- Settles O43: SR is pushed and the stack pointer decremented again, the acknowledge brings the vector to MDR, the word at the vector goes
to PC, and the last step clears IF. -/
theorem interruptBlockResult : Obligations.InterruptBlockResult := by
  intro s k d hq hupc hm sp1 sp2 v hin1 hin2 hinv hn hk m ds h
  have hblock : ({ s.start with upc := intAddress } : State) = s.start := by rw [← hupc]; rfl
  have hnotFetch : s.upc ≠ 0 := by rw [hupc]; decide
  rw [step_of_runsToFin hm, if_neg hnotFetch, if_pos hupc, takeInterrupt, hblock]
  have hstart : Quiet s.start := hq.of_eq rfl rfl rfl
  calc runSteps (fun _ => none) interruptBlock s.start
      = _ := runSteps_pushTwice hstart hm hin1
    _ = _ := runSteps_serve (w := h) (hstart.of_eq rfl rfl rfl) hm hin2 hinv hn hk rfl
    _ = _ := by
      refine congrArg Host.Outcome.next (State.endInstruction_congr ?_)
      simp only [State.acknowledged, State.pushedTwice, State.withAlu, State.setReg, State.clearCarry, State.start, State.reg,
        aluOf, hq.idle, hq.count, sp1, sp2, v, m, ds, h]

end Sys2Proof.Machine
end

section
/-! PROOFS. A step at an instruction boundary runs the instruction that its fetch decodes (44_control_unit.md R290, R298; 45_instr_move.md
R320). -/

namespace Sys2Proof.Machine

/-- What the decoded-instruction half of a step runs is given by the word in IR (R290). -/
theorem execDecoded_of_decode {s : State} {i : Instr} (h : decodeInstruction s.ir = .ok i) : execDecoded s = exec i s := by
  rw [execDecoded, h]

/-- Settles O7: a decoded instruction is well formed, and the fetch leaves the word that it decoded in IR, where the step finds it. -/
theorem stepRunsDecodedInstruction : Obligations.StepRunsDecodedInstruction := by
  intro s w ds i hb hpc hw
  have hwf : i.WellFormed := (reencodeKeepsUsedBits w i hw).1
  have hfetch : fetch s.start = .next (s.start.fetched w ds i) := fetchReadsOneWord s.start w ds i hb.start hpc hw
  have hir : (s.start.fetched w ds i).ir = w := rfl
  refine ⟨hwf, ?_⟩
  calc step s = andThen (fetch s.start) execDecoded := by rw [step_of_runsToFin hb.mode, if_pos hb.upc]
    _ = execDecoded (s.start.fetched w ds i) := by rw [hfetch, andThen_next]
    _ = exec i (s.start.fetched w ds i) := execDecoded_of_decode (by rw [hir, hw])

end Sys2Proof.Machine
end

section
/-! PROOFS. The moves, the immediates and the stack instructions (45_instr_move.md R321 to R328), and the errors of these, of
the calls and of the return at an unmapped address (R404): each instruction is its own steps one after the other. -/

namespace Sys2Proof.Machine

section
variable {field : Placeholder → Option Reg} {p : Placeholder} {n : Reg}

/-! ### Uploads into the register of a field -/

theorem execToken_ibPh (h : field p = some n) (u : State) : execToken field (.ibPh p) u = .next (u.setReg n u.ib) := by
  simp only [execToken, Token.resolve, h, Option.map_some, execSignal]

theorem execToken_iblPh (h : field p = some n) (u : State) :
    execToken field (.iblPh p) u = .next (u.setReg n (bytes (highByte (u.reg n)) (lowByte u.ib))) := by
  simp only [execToken, Token.resolve, h, Option.map_some, execSignal]

theorem execToken_ibhPh (h : field p = some n) (u : State) :
    execToken field (.ibhPh p) u = .next (u.setReg n (bytes (highByte u.ib) (lowByte (u.reg n)))) := by
  simp only [execToken, Token.resolve, h, Option.map_some, execSignal]

/-! ### The last step -/

variable {s t : State} {rd : Reg}

/-- The end of an instruction forgets `upc` and the step counter (R288). -/
theorem next_finish_congr {u : State}
    (h : { t.clearCarry with upc := 0, stepCount := 0 } = { u.clearCarry with upc := 0, stepCount := 0 }) :
    (.next t.finish : Result) = .next u.finish :=
  congrArg Host.Outcome.next (State.endInstruction_congr h)

/-- A last step whose signals make `t` of a quiet state and start no access ends the instruction with the effects of `t` (R284,
R288). -/
theorem runSteps_last {S : MicroStep} (hq : Quiet s) (hm : s.runsToFin)
    (he : execTokens field S s.clearCarry = .next t.clearCarry) (hf : S.any Token.isFin = true)
    (hmode : t.mode = s.mode) (hmem : t.memMode = s.memMode) (hd : t.devices = s.devices) :
    runSteps field [S] s = .next t.finish := by
  have hrun : t.clearCarry.runsToFin := by rwa [State.runsToFin, State.clearCarry_mode, hmode]
  have hidle : t.clearCarry.memMode = .idle := hmem.trans hq.idle
  have hdev : ∀ d ∈ t.clearCarry.devices, d.intRead = .idle := fun d h => hq.devices d (hd ▸ h)
  exact runSteps_cons (pulse_fin he hrun hf hidle hdev)

/-- The step that only ends the instruction (R321, R324, R327). -/
theorem runSteps_onlyFin (hq : Quiet s) (hm : s.runsToFin) : runSteps field [[.sig .fin]] s = .next s.finish :=
  runSteps_last hq hm rfl rfl rfl rfl rfl

/-- MOV's step: the source register's word goes over the bus to the destination (R322). -/
theorem runSteps_copyRegister {rs : Reg} (hq : Quiet s) (hm : s.runsToFin) (hs : field .rs = some rs) (hd : field .rd = some rd) :
    runSteps field ucMov s = .next ({ s with ib := s.reg rs }.setReg rd (s.reg rs)).finish := by
  refine runSteps_last hq hm ?_ rfl rfl rfl rfl
  simp only [execTokens, execToken_phIb hs rfl, execToken_ibPh hd, andThen_next]
  rfl

/-- The last step of the load and of POP: MDR's word goes to the destination (R323, R328). -/
theorem runSteps_mdrToRegister (hq : Quiet s) (hm : s.runsToFin) (hd : field .rd = some rd) :
    runSteps field [[.sig .mdrIb, .ibPh .rd, .sig .fin]] s = .next ({ s with ib := s.mdr }.setReg rd s.mdr).finish := by
  refine runSteps_last hq hm ?_ rfl rfl rfl rfl
  simp only [execTokens, execToken_ibPh hd]
  rfl

/-- MOVL's step: the byte in IR goes to the destination's low byte (R325). -/
theorem runSteps_lowByte {k : Byte} (hq : Quiet s) (hm : s.runsToFin) (hd : field .rd = some rd) (hk : lowByte s.ir = k) :
    runSteps field ucMovl s = .next ({ s with ib := bytes 0 k }.setReg rd (bytes (highByte (s.reg rd)) k)).finish := by
  have hbus : execToken field (.sig .irlIbl) s.clearCarry = .next { s.clearCarry with ib := bytes 0 k } := hk ▸ rfl
  refine runSteps_last hq hm ?_ rfl rfl rfl rfl
  simp only [execTokens, hbus, execToken_iblPh hd, andThen_next, lowByte_bytes]
  rfl

/-- MOVH's step: the byte in IR goes to the destination's high byte (R326). -/
theorem runSteps_highByte {k : Byte} (hq : Quiet s) (hm : s.runsToFin) (hd : field .rd = some rd) (hk : lowByte s.ir = k) :
    runSteps field ucMovh s = .next ({ s with ib := bytes k 0 }.setReg rd (bytes k (lowByte (s.reg rd)))).finish := by
  have hbus : execToken field (.sig .irlIbh) s.clearCarry = .next { s.clearCarry with ib := bytes k 0 } := hk ▸ rfl
  refine runSteps_last hq hm ?_ rfl rfl rfl rfl
  simp only [execTokens, hbus, execToken_ibhPh hd, andThen_next, highByte_bytes]
  rfl

/-! ### Accesses -/

/-- MAR and IB hold the address of an access (R323, R324). -/
def State.addressed (s : State) (a : Word) : State := { s with mar := a, ib := a }

/-- A read where nothing is mapped: the error comes at the end of the empty step, with the address in MAR and IB (R323, R404). -/
theorem runSteps_read_unmapped {X : Token} {a : Word} {rest : Microprogram} (hq : Quiet s) (hm : s.runsToFin)
    (hX : execToken field X s.clearCarry = .next { s.clearCarry with ib := a }) (hf : X.isFin = false) (hi : X.isIbIr = false)
    (hr : s.getPos a.toNat = none) :
    runSteps field ([X, .sig .ibMar, .sig .read] :: [] :: rest) s =
      .fault (.noModuleOrDevice ((s.addressed a).clearCarry.stuckAt .read (s.upc + 1 + 1) 2)) := by
  have harm : pulseWith field [X, .sig .ibMar, .sig .read] s =
      .next { (s.addressed a).clearCarry.advance with memMode := .read, memCnt := 1 } := by
    refine (pulse_arming (t := { (s.addressed a).clearCarry with memMode := .read, memCnt := 0 })
      ?_ hm ?_ ?_ (by simp) rfl hq.devices).trans rfl
    · have hbus : arm .read { s.clearCarry with ib := a, mar := a } = .next _ := arm_idle (by exact hq.idle)
      rw [execTokens, hX]
      exact (congrArg (andThen · _) hbus).trans rfl
    · simp only [List.any_cons, hf]; rfl
    · simp only [List.any_cons, hi]; rfl
  refine (runSteps_cons harm).trans ((runSteps_fault (pulse_unreadable rfl ?_ rfl rfl rfl rfl ?_)).trans rfl)
  · exact hm
  · exact hr

/-- The store's address step: the address register's word goes to MAR (R324). -/
theorem runSteps_address {ri : Reg} {rest : Microprogram} (hq : Quiet s) (hm : s.runsToFin) (hri : field .ri = some ri) :
    runSteps field ([.phIb .ri, .sig .ibMar] :: rest) s =
      runSteps field rest (s.addressed (s.reg ri)).clearCarry.advance := by
  refine runSteps_cons (pulse_plain ?_ ?_ rfl rfl ?_ ?_)
  · simp only [execTokens, execToken_phIb hri rfl, andThen_next]
    rfl
  · exact hm
  · exact hq.idle
  · exact hq.devices

/-- A store leaves no access in progress (R74). -/
theorem afterStore_quiet {a : Nat} {v : Word} {r : Memory × List Device} (hq : Quiet s) (hw : s.setPos a v = some r) :
    Quiet (afterStore s v r) :=
  ⟨rfl, rfl, State.setPos_quiet hw hq.devices⟩

theorem afterStore_runsToFin {v : Word} {r : Memory × List Device} (hm : s.runsToFin) : (afterStore s v r).runsToFin := hm

/-- The store: the address goes to MAR, the word to MDR and, in the empty step, to memory (R324). -/
theorem runSteps_movStore {ri rs : Reg} {r : Memory × List Device} (hq : Quiet s) (hm : s.runsToFin) (hri : field .ri = some ri)
    (hrs : field .rs = some rs) (hw : s.setPos (s.reg ri).toNat (s.reg rs) = some r) :
    runSteps field ucMovStore s = .next ({ s with mar := s.reg ri, mdr := s.reg rs, ib := s.reg rs }.withMemory r).finish := by
  have haddressed : Quiet (s.addressed (s.reg ri)).clearCarry.advance := hq.of_eq rfl rfl rfl
  refine (runSteps_address hq hm hri).trans ((runSteps_store haddressed hm ?_ rfl rfl hw).trans
    ((runSteps_onlyFin (afterStore_quiet haddressed hw) (afterStore_runsToFin hm)).trans ?_))
  · exact fun u hregs _ _ => execToken_phIb hrs (State.reg_of_regs hregs rs)
  · rw [afterStore, ← hq.idle, ← hq.count]
    rfl

/-- The store where nothing is mapped: the error comes at the end of the empty step (R324, R404). -/
theorem runSteps_movStore_unmapped {ri rs : Reg} (hq : Quiet s) (hm : s.runsToFin) (hri : field .ri = some ri)
    (hrs : field .rs = some rs) (hw : s.setPos (s.reg ri).toNat (s.reg rs) = none) :
    runSteps field ucMovStore s =
      .fault (.noModuleOrDevice
        ({ s with mar := s.reg ri, mdr := s.reg rs, ib := s.reg rs }.clearCarry.stuckAt .write (s.upc + 1 + 1 + 1) 3)) := by
  have haddressed : Quiet (s.addressed (s.reg ri)).clearCarry.advance := hq.of_eq rfl rfl rfl
  refine (runSteps_address hq hm hri).trans ((runSteps_store_unmapped haddressed hm ?_ rfl rfl hw).trans rfl)
  exact fun u hregs _ _ => execToken_phIb hrs (State.reg_of_regs hregs rs)

/-- The push of a word where the address is mapped (R261, R327, R363). -/
theorem runSteps_push {X : Token} {v : Word} {r : Memory × List Device} {rest : Microprogram} (hq : Quiet s) (hm : s.runsToFin)
    (hX : ∀ u : State, u.regs = s.pushed.regs → u.pc = s.pc → execToken field X u = .next { u with ib := v })
    (hf : X.isFin = false) (hi : X.isIbIr = false) (hw : s.setPos (s.reg spReg - 1).toNat v = some r) :
    runSteps field (pushAddress ++ [X, .sig .ibMdr, .sig .write] :: [] :: rest) s = runSteps field rest (s.afterPush v r) := by
  rw [runSteps_pushAddress hq hm, ← afterStore_pushed hq]
  refine runSteps_store ?_ ?_ ?_ hf hi ?_
  · exact hq.of_eq rfl rfl rfl
  · exact hm
  · exact fun u hregs hpc _ => hX u hregs hpc
  · exact hw

/-- The push of a word where nothing is mapped: the error comes with R7 already decremented (R327, R404). -/
theorem runSteps_push_unmapped {X : Token} {v : Word} {rest : Microprogram} (hq : Quiet s) (hm : s.runsToFin)
    (hX : ∀ u : State, u.regs = s.pushed.regs → u.pc = s.pc → execToken field X u = .next { u with ib := v })
    (hf : X.isFin = false) (hi : X.isIbIr = false) (hw : s.setPos (s.reg spReg - 1).toNat v = none) :
    runSteps field (pushAddress ++ [X, .sig .ibMdr, .sig .write] :: [] :: rest) s =
      .fault (.noModuleOrDevice ({ s.pushed with mdr := v, ib := v }.stuckAt .write (s.upc + 1 + 1 + 1 + 1) 4)) := by
  rw [runSteps_pushAddress hq hm]
  refine (runSteps_store_unmapped ?_ ?_ ?_ hf hi ?_).trans rfl
  · exact hq.of_eq rfl rfl rfl
  · exact hm
  · exact fun u hregs hpc _ => hX u hregs hpc
  · exact hw

/-- PUSH's steps (R327): the source is read from the registers that *push-address* has left. -/
theorem runSteps_pushRegister {rs : Reg} {r : Memory × List Device} (hq : Quiet s) (hm : s.runsToFin) (hrs : field .rs = some rs)
    (hw : s.setPos (s.reg spReg - 1).toNat (s.pushed.reg rs) = some r) :
    runSteps field ucPush s =
      .next ({ s.pushed with mdr := s.pushed.reg rs, ib := s.pushed.reg rs }.withMemory r).finish := by
  refine (runSteps_push hq hm ?_ rfl rfl hw).trans (runSteps_onlyFin (afterPush_quiet hq hw) hm)
  exact fun u hregs _ => execToken_phIb hrs (State.reg_of_regs hregs rs)

/-- POP's steps (R328): R7 is incremented before the destination is loaded. -/
theorem runSteps_popRegister {v : Word} {ds : List Device} (hq : Quiet s) (hm : s.runsToFin) (hd : field .rd = some rd)
    (hr : s.getPos (s.reg spReg).toNat = some (v, ds)) :
    runSteps field ucPop s = .next ({ s.popped v ds with ib := v }.setReg rd v).finish := by
  have hpopped : Quiet { s.popped v ds with
      ib := s.reg spReg + 1, upc := s.upc + 1 + 1 + 1, stepCount := s.stepCount + 1 + 1 + 1 } :=
    ⟨hq.idle, hq.count, State.getPos_quiet hr hq.devices⟩
  refine (runSteps_pop hq hm hr).trans ((runSteps_mdrToRegister hpopped ?_ hd).trans (next_finish_congr rfl))
  exact hm

end

/-! ### The instructions -/

/-- Latching the byte that IR holds already changes nothing (log 5). -/
theorem State.latch_eq_self {s : State} {k : Byte} (h : lowByte s.ir = k) : s.latch k = s := by
  rw [State.latch, ← h, bytes_highByte_lowByte]

/-- Settles O13: each of the two is a single step. -/
theorem moveRegisterResult : Obligations.MoveRegisterResult := fun s hq hm =>
  ⟨runSteps_onlyFin (s := s.enter .nop 3) (hq.enter _ _) hm,
    fun rd rs => runSteps_copyRegister (s := s.enter (.mov rd rs) 4) (hq.enter _ _) hm rfl rfl⟩

/-- Settles O14: the word that `getPos` answers reaches the destination through MDR. -/
theorem loadResult : Obligations.LoadResult := fun _ _ _ _ _ hq hm hr => exec_movLoad hq hm hr

/-- Settles O15: the store's own steps, from the state that its fetch leaves. (The name `storeResult` alone is that of a stored
step, R347.) -/
theorem Moves.storeResult : Obligations.StoreResult := fun ri rs s _ hq hm hw =>
  runSteps_movStore (s := s.enter (.movStore ri rs) 8) (hq.enter _ _) hm rfl rfl hw

/-- Settles O16: the load meets the error in its second step, the store in its third, and neither has written a general
register. -/
theorem unmappedDataAccess : Obligations.UnmappedDataAccess := fun s hq hm =>
  ⟨fun rd ri hr =>
      runSteps_read_unmapped (s := s.enter (.movLoad rd ri) 5) (hq.enter _ _) hm (execToken_phIb rfl rfl) rfl rfl hr,
    fun ri rs hw => runSteps_movStore_unmapped (s := s.enter (.movStore ri rs) 8) (hq.enter _ _) hm rfl rfl hw⟩

/-- Settles O17: IR's low byte is the literal once the program is entered. -/
theorem loadImmediateResult : Obligations.LoadImmediateResult := by
  intro rd k s hq hm
  refine ⟨?_, ?_, State.latch_eq_self⟩
  · exact runSteps_lowByte (s := s.enter (.movl rd k) 12) (hq.enter _ _) hm rfl (lowByte_bytes (highByte s.ir) k)
  · exact runSteps_highByte (s := s.enter (.movh rd k) 13) (hq.enter _ _) hm rfl (lowByte_bytes (highByte s.ir) k)

/-- Settles O18: PUSH's own steps, from the state that its fetch leaves. -/
theorem pushResult : Obligations.PushResult := fun rs s _ hq hm hw =>
  runSteps_pushRegister (s := s.enter (.push rs) 14) (hq.enter _ _) hm rfl hw

/-- Settles O19: POP's own steps, from the state that its fetch leaves. -/
theorem popResult : Obligations.PopResult := fun rd s _ _ hq hm hr =>
  (runSteps_popRegister (s := s.enter (.pop rd) 19) (hq.enter _ _) hm rfl hr).trans (next_finish_congr rfl)

/-- Settles O20: the three pushes stop in the empty step after *push-address*, the two pops in the empty step of *pop*. -/
theorem unmappedStackAccess : Obligations.UnmappedStackAccess := by
  intro s hq hm
  refine ⟨fun rs hw => ?_, fun hw d rx => ⟨?_, ?_⟩, fun hr rd => ⟨?_, ?_⟩⟩
  · exact runSteps_push_unmapped (s := s.enter (.push rs) 14) (hq.enter _ _) hm
      (fun u hregs _ => execToken_phIb rfl (State.reg_of_regs hregs rs)) rfl rfl hw
  · exact runSteps_push_unmapped (s := s.enter (.callr d) 75) (hq.enter _ _) hm (fun u _ hpc => execToken_pcIb hpc) rfl rfl hw
  · exact runSteps_push_unmapped (s := s.enter (.call rx) 82) (hq.enter _ _) hm (fun u _ hpc => execToken_pcIb hpc) rfl rfl hw
  · exact runSteps_pop_unmapped (s := s.enter (.pop rd) 19) (hq.enter _ _) hm hr
  · exact runSteps_pop_unmapped (s := s.enter .ret 87) (hq.enter _ _) hm hr

end Sys2Proof.Machine
end

section
/-! PROOFS. Arithmetic, logic and compare (46_instr_alu.md R340 to R351): the three shapes of an ALU instruction, each said once for
the operation in its closed form, and what each instruction's operation is. -/

namespace Sys2Proof.Machine

section
variable {field : Placeholder → Option Reg} {s : State}

/-! ### Two operands -/

/-- The three-operand shape where the operation's closed form is known: the result in Rd, TMPS and IB, its flags in SR (R351). -/
theorem runSteps_threeOperand_flags {op : Signal} {f : Word → Word → Alu → Alu} {rd rs1 rs2 : Reg} {r : Word} {cf of : Bool}
    (hq : Quiet s) (hm : s.runsToFin)
    (hop : ∀ u : State, u.cfg = s.cfg → execSignal op u = .next { u with alu := f u.ib u.tmpe u.alu })
    (hf : (Token.sig op).isFin = false) (hi : (Token.sig op).isIbIr = false)
    (h1 : field .rs1 = some rs1) (h2 : field .rs2 = some rs2) (hd : field .rd = some rd)
    (hclosed : f (s.reg rs1) (s.reg rs2) { s.alu with carryIn := false } = aluOf (s.reg rs1) (s.reg rs2) r cf of) :
    runSteps field (threeOperand op) s =
      .next (({ s with tmpe := s.reg rs2, ib := r, tmps := r }.withFlags (s.reg rs1) (s.reg rs2) r cf of).setReg
        rd r).finish := by
  rw [runSteps_threeOperand hq hm hop hf hi h1 h2 hd, hclosed]
  rfl

/-- The signal `sub` in closed form under the carry rule of the machine (R142, R147). -/
theorem execSignal_sub {a b : Word} {rule : SubCarryRule} (hrule : s.cfg.subCarryRule = rule) (ha : s.ib = a)
    (hb : s.tmpe = b) (hc : s.alu.carryIn = false) :
    execSignal .sub s = .next (s.withAlu a b (a - b) (subCarry rule a b) (a.ssubOverflow b)) := by
  subst hrule ha hb
  rw [State.withAlu, ← aluSub_eq _ _ _ s.alu hc]
  rfl

/-- The signals of CMP's last step, where TMPE holds the second operand (R346). -/
theorem execTokens_compare {rs1 : Reg} {a b : Word} {rule : SubCarryRule} (h1 : field .rs1 = some rs1)
    (hrule : s.cfg.subCarryRule = rule) (ha : s.reg rs1 = a) (hb : s.tmpe = b) :
    execTokens field [.phIb .rs1, .sig .sub, .sig .aluSr, .sig .fin] s.clearCarry =
      .next ({ s with ib := a }.withFlags a b (a - b) (subCarry rule a b) (a.ssubOverflow b)).clearCarry := by
  have hsub : execSignal .sub { s.clearCarry with ib := a } =
      .next ({ s with ib := a }.withAlu a b (a - b) (subCarry rule a b) (a.ssubOverflow b)) :=
    execSignal_sub hrule rfl hb rfl
  rw [execTokens, execToken_phIb h1 (u := s.clearCarry) ha]
  exact (congrArg (andThen · (execTokens field [.sig .aluSr, .sig .fin])) hsub).trans rfl

/-- CMP's steps: the subtraction's flags go to SR, its result stays in the ALU (R346). -/
theorem runSteps_compare {rs1 rs2 : Reg} (hq : Quiet s) (hm : s.runsToFin) (h1 : field .rs1 = some rs1)
    (h2 : field .rs2 = some rs2) :
    runSteps field ucCmp s =
      .next ({ s with tmpe := s.reg rs2, ib := s.reg rs1 }.withFlags (s.reg rs1) (s.reg rs2) (s.reg rs1 - s.reg rs2)
        (subCarry s.cfg.subCarryRule (s.reg rs1) (s.reg rs2)) ((s.reg rs1).ssubOverflow (s.reg rs2))).finish := by
  have hload : pulseWith field [.phIb .rs2, .sig .ibTmpe] s =
      .next { s with ib := s.reg rs2, tmpe := s.reg rs2 }.clearCarry.advance := by
    refine pulse_plain ?_ hm rfl rfl hq.idle hq.devices
    simp only [execTokens, execToken_phIb h2 rfl, andThen_next]
    rfl
  have hquiet : Quiet { s with ib := s.reg rs2, tmpe := s.reg rs2 }.clearCarry.advance := hq.of_eq rfl rfl rfl
  rw [ucCmp, runSteps_cons hload, runSteps_last hquiet hm (execTokens_compare h1 rfl rfl rfl) rfl rfl rfl rfl]
  exact next_finish_congr rfl

/-! ### One operand -/

/-- Exclusive or with ones complements; carry and overflow are the old ones (R145, R347). -/
theorem aluXor_ones (a : Word) (x : Alu) (h : x.carryIn = false) :
    aluXor a 0xFFFF x = aluOf a 0xFFFF (~~~a) x.cf x.of := by
  rw [aluXor, xor_ones, aluLatch_eq _ _ _ _ h]

/-! The increment's carry and overflow conditions on a complement (R350). -/

theorem not_beq_ones (a : Word) : (~~~a == 0xFFFF) = (a == 0) := by
  rw [Bool.eq_iff_iff]
  simp only [beq_iff_eq]
  bv_omega

theorem not_beq_max (a : Word) : (~~~a == 0x7FFF) = (a == 0x8000) := by
  rw [Bool.eq_iff_iff]
  simp only [beq_iff_eq]
  bv_omega

/-- The closed forms of the ALU's results have no carry input (R284). -/
theorem aluOf_eq_carryIn_false (a b r : Word) (cf of : Bool) :
    aluOf a b r cf of = { aluOf a b r cf of with carryIn := false } := rfl

/-- The last step of a one-operand instruction: TMPS goes back to the operand's register (R347). -/
theorem runSteps_storeResult {rds : Reg} (hq : Quiet s) (hm : s.runsToFin) (hrds : field .rds = some rds) :
    runSteps field storeResult s = .next ({ s with ib := s.tmps }.setReg rds s.tmps).finish := by
  refine runSteps_last hq hm ?_ rfl rfl rfl rfl
  simp only [execTokens, execToken_ibPh hrds]
  rfl

/-- The ALU has operated on `a` from the bus and `b` from TMPE, TMPS has the result and SR the flags (R178, R179). -/
def State.operated (s : State) (a b : Word) (x : Alu) : State :=
  { s with ib := a, tmpe := b, alu := x, tmps := x.result, sr := copyFlags x s.sr }

/-- The one-operand shape: a step in which the ALU operates and SR takes its flags, and the result's step. `c` is the carry input
the step has left, which the next step clears (R284, R347 to R350). -/
theorem runSteps_oneOperand {S : MicroStep} {rds : Reg} {a b r : Word} {x : Alu} {cf of c : Bool} (hq : Quiet s)
    (hm : s.runsToFin) (hrds : field .rds = some rds) (hf : S.any Token.isFin = false) (hi : S.any Token.isIbIr = false)
    (hS : execTokens field S s.clearCarry = .next (s.operated a b x))
    (hx : x = { aluOf a b r cf of with carryIn := c }) :
    runSteps field (S :: storeResult) s =
      .next (({ s with tmpe := b, ib := r, tmps := r }.withFlags a b r cf of).setReg rds r).finish := by
  subst hx
  have hoperate := pulse_plain hS hm hf hi hq.idle hq.devices
  have hquiet : Quiet (s.operated a b { aluOf a b r cf of with carryIn := c }).advance := hq.of_eq rfl rfl rfl
  rw [runSteps_cons hoperate, runSteps_storeResult hquiet hm hrds]
  exact next_finish_congr rfl

/-- The signals with which NOT and NEG complement the operand, up to TMPS; carry and overflow are the ALU's old ones (R347,
R350). -/
theorem execTokens_complement {rds : Reg} (hrds : field .rds = some rds) (rest : MicroStep) :
    execTokens field (.phIb .rds :: .sig .tmpeSet :: .sig .xor :: .sig .aluTmps :: rest) s.clearCarry =
      execTokens field rest { s.withAlu (s.reg rds) 0xFFFF (~~~s.reg rds) s.alu.cf s.alu.of with
        ib := s.reg rds
        tmpe := 0xFFFF
        tmps := ~~~s.reg rds } := by
  have hx : aluXor (s.reg rds) 0xFFFF s.clearCarry.alu = aluOf (s.reg rds) 0xFFFF (~~~s.reg rds) s.alu.cf s.alu.of :=
    aluXor_ones _ _ rfl
  have hrun : execTokens field (.phIb .rds :: .sig .tmpeSet :: .sig .xor :: .sig .aluTmps :: rest) s.clearCarry =
      execTokens field rest { s with
        ib := s.reg rds
        tmpe := 0xFFFF
        alu := aluXor (s.reg rds) 0xFFFF s.clearCarry.alu
        tmps := (aluXor (s.reg rds) 0xFFFF s.clearCarry.alu).result } := by
    rw [execTokens, execToken_phIb hrds rfl]
    rfl
  rw [hrun, hx]
  rfl

section
variable {rds : Reg} (hq : Quiet s) (hm : s.runsToFin) (hrds : field .rds = some rds)
include hq hm hrds

/-- NOT's steps: exclusive or with ones, carry and overflow those of before (R347). -/
theorem runSteps_complement :
    runSteps field ucNot s =
      .next (({ s with tmpe := 0xFFFF, ib := ~~~s.reg rds, tmps := ~~~s.reg rds }.withFlags (s.reg rds) 0xFFFF
        (~~~s.reg rds) s.alu.cf s.alu.of).setReg rds (~~~s.reg rds)).finish :=
  runSteps_oneOperand (c := false) hq hm hrds rfl rfl (execTokens_complement hrds [.sig .aluSr])
    (aluOf_eq_carryIn_false ..)

/-- INC's steps: 0 is added with carry (R348). -/
theorem runSteps_increment :
    runSteps field ucInc s =
      .next (({ s with tmpe := 0, ib := s.reg rds + 1, tmps := s.reg rds + 1 }.withFlags (s.reg rds) 0 (s.reg rds + 1)
        (s.reg rds == 0xFFFF) (s.reg rds == 0x7FFF)).setReg rds (s.reg rds + 1)).finish := by
  refine runSteps_oneOperand (x := aluAdd (s.reg rds) 0 { s.clearCarry.alu with carryIn := true }) hq hm hrds rfl rfl ?_
    (aluAdd_inc _ _ rfl)
  rw [execTokens, execToken_phIb hrds rfl]
  rfl

/-- DEC's steps: 0xFFFF is added (R349). -/
theorem runSteps_decrement :
    runSteps field ucDec s =
      .next (({ s with tmpe := 0xFFFF, ib := s.reg rds - 1, tmps := s.reg rds - 1 }.withFlags (s.reg rds) 0xFFFF
        (s.reg rds - 1) (s.reg rds != 0) (s.reg rds == 0x8000)).setReg rds (s.reg rds - 1)).finish := by
  refine runSteps_oneOperand (x := aluAdd (s.reg rds) 0xFFFF s.clearCarry.alu) (c := false) hq hm hrds rfl rfl ?_
    (aluAdd_dec _ _ rfl)
  simp only [execTokens, execToken_phIb hrds rfl, andThen_next]
  rfl

/-- NEG's steps: the complement goes back to the register, and the rest is INC's program (R350). -/
theorem runSteps_negate :
    runSteps field ucNeg s =
      .next (({ s with tmpe := 0, ib := -s.reg rds, tmps := -s.reg rds }.withFlags (~~~s.reg rds) 0 (-s.reg rds)
        (s.reg rds == 0) (s.reg rds == 0x8000)).setReg rds (-s.reg rds)).finish := by
  have hcomplement := pulse_plain (execTokens_complement (s := s) hrds []) hm rfl rfl hq.idle hq.devices
  generalize hu : State.advance _ = u at hcomplement
  have hwrite : pulseWith field [.sig .tmpsIb, .ibPh .rds] u =
      .next ({ u with ib := ~~~s.reg rds }.setReg rds (~~~s.reg rds)).clearCarry.advance := by
    subst hu
    refine pulse_plain ?_ hm rfl rfl hq.idle hq.devices
    simp only [execTokens, execToken_ibPh hrds]
    rfl
  have hquiet : Quiet ({ u with ib := ~~~s.reg rds }.setReg rds (~~~s.reg rds)).clearCarry.advance := by
    subst hu
    exact hq.of_eq rfl rfl rfl
  have hrun : ({ u with ib := ~~~s.reg rds }.setReg rds (~~~s.reg rds)).clearCarry.advance.runsToFin := hu ▸ hm
  have hreg : ({ u with ib := ~~~s.reg rds }.setReg rds (~~~s.reg rds)).clearCarry.advance.reg rds = ~~~s.reg rds :=
    State.setReg_reg_same ..
  have hneg : ~~~s.reg rds + 1 = -s.reg rds := (BitVec.neg_eq_not_add _).symm
  have hincrement := runSteps_increment hquiet hrun hrds
  rw [hreg, not_beq_ones, not_beq_max, hneg] at hincrement
  refine ((runSteps_two hcomplement hwrite).trans hincrement).trans (next_finish_congr ?_)
  subst hu
  simp [State.clearCarry, State.advance, State.setReg, State.withFlags, State.withAlu]

end

end

/-! ### The instructions -/

/-- Settles O21: the three-operand shape with the closed form of `add`. -/
theorem addResult : Obligations.AddResult := fun rd rs1 rs2 s hq hm =>
  runSteps_threeOperand_flags (s := s.enter (.add rd rs1 rs2) 23) (f := aluAdd) (hq.enter _ _) hm (fun _ _ => rfl) rfl rfl
    rfl rfl rfl (aluAdd_eq _ _ _ rfl)

/-- Settles O22: the three-operand shape with the closed form of `sub`, under whichever carry rule the machine has. -/
theorem subtractResult : Obligations.SubtractResult := fun rd rs1 rs2 s hq hm =>
  runSteps_threeOperand_flags (s := s.enter (.sub rd rs1 rs2) 26) (f := aluSub s.cfg.subCarryRule) (hq.enter _ _) hm
    (fun _ hcfg => hcfg ▸ rfl) rfl rfl rfl rfl rfl (aluSub_eq _ _ _ _ rfl)

/-- Settles O23: the three-operand shape with the latch of a bitwise result, which keeps the ALU's carry and overflow. -/
theorem logicResult : Obligations.LogicResult := fun rd rs1 rs2 s hq hm =>
  ⟨runSteps_threeOperand_flags (s := s.enter (.or rd rs1 rs2) 29) (f := aluOr) (hq.enter _ _) hm (fun _ _ => rfl) rfl rfl
      rfl rfl rfl (aluLatch_eq _ _ _ _ rfl),
    runSteps_threeOperand_flags (s := s.enter (.and rd rs1 rs2) 32) (f := aluAnd) (hq.enter _ _) hm (fun _ _ => rfl) rfl rfl
      rfl rfl rfl (aluLatch_eq _ _ _ _ rfl),
    runSteps_threeOperand_flags (s := s.enter (.xor rd rs1 rs2) 35) (f := aluXor) (hq.enter _ _) hm (fun _ _ => rfl) rfl rfl
      rfl rfl rfl (aluLatch_eq _ _ _ _ rfl)⟩

/-- Settles O24: CMP's own steps, from the state that its fetch leaves. -/
theorem compareResult : Obligations.CompareResult := fun rs1 rs2 s hq hm =>
  runSteps_compare (s := s.enter (.cmp rs1 rs2) 38) (hq.enter _ _) hm rfl rfl

/-- Settles O25: NOT's own steps, from the state that its fetch leaves. -/
theorem notResult : Obligations.NotResult := fun rds s hq hm =>
  runSteps_complement (s := s.enter (.not rds) 40) (hq.enter _ _) hm rfl

/-- Settles O26: the own steps of INC and of DEC, from the state that the fetch leaves. -/
theorem incrementDecrementResult : Obligations.IncrementDecrementResult := fun rds s hq hm =>
  ⟨runSteps_increment (s := s.enter (.inc rds) 42) (hq.enter _ _) hm rfl,
    runSteps_decrement (s := s.enter (.dec rds) 44) (hq.enter _ _) hm rfl⟩

/-- Settles O27: NEG's own steps, from the state that its fetch leaves. -/
theorem negateResult : Obligations.NegateResult := fun rds s hq hm =>
  runSteps_negate (s := s.enter (.neg rds) 46) (hq.enter _ _) hm rfl

/-! ### The flags of the logic instructions -/

/-- The carry and the overflow that an ALU instruction has put in SR (R179). -/
theorem carry_overflow_of_withFlags {r : Result} {u t : State} {a b v w : Word} {cf of : Bool} {n : Reg}
    (hr : r = .next ((u.withFlags a b v cf of).setReg n w).finish) (h : r = .next t) : srCf t.sr = cf ∧ srOf t.sr = of := by
  cases hr.symm.trans h
  exact ⟨srCf_packSr .., srOf_packSr ..⟩

/-- OR, AND, XOR and NOT copy the carry and the overflow that the ALU held before them (R340). -/
theorem exec_logic_flags {i : Instr} {s t : State}
    (hi : ∃ rd a b, i = .or rd a b ∨ i = .and rd a b ∨ i = .xor rd a b ∨ i = .not rd)
    (hq : Quiet s) (hm : s.runsToFin) (h : exec i s = .next t) : srCf t.sr = s.alu.cf ∧ srOf t.sr = s.alu.of := by
  obtain ⟨rd, a, b, hi⟩ := hi
  obtain ⟨hor, hand, hxor⟩ := logicResult rd a b s hq hm
  obtain rfl | rfl | rfl | rfl := hi
  · exact carry_overflow_of_withFlags hor h
  · exact carry_overflow_of_withFlags hand h
  · exact carry_overflow_of_withFlags hxor h
  · exact carry_overflow_of_withFlags (notResult rd s hq hm) h

/-- Settles O28: the instruction starts with the ALU as the fetch's increment of PC left it. -/
theorem logicFlagsAreTheFetchs : Obligations.LogicFlagsAreTheFetchs := by
  intro s t w ds i hb hpc hw hi ht
  have hquiet : Quiet (s.start.fetched w ds i) := fetched_quiet hb.start.quiet hpc i
  rw [(stepRunsDecodedInstruction s w ds i hb hpc hw).2] at ht
  exact exec_logic_flags hi hquiet hb.mode ht

end Sys2Proof.Machine
end

section
/-! PROOFS. What a run of microsteps can do to SR (41_signals.md R179, R187 to R189), and the part of SR that each instruction keeps
(46_instr_alu.md R340; 47_instr_control.md R376 to R379; 60_exceptions.md R415). -/

namespace Sys2Proof.Machine

/-- The signals that write SR (R179, R187 to R189). -/
def Signal.writesSr : Signal → Bool
  | .aluSr | .ibSr | .cli | .sti => true
  | _ => false

/-- The SR-writing signals of a microprogram, its placeholders replaced by the fields. -/
def srWriters (field : Placeholder → Option Reg) (p : Microprogram) : List Signal :=
  (p.flatten.filterMap (Token.resolve field)).filter Signal.writesSr

theorem mem_srWriters {field : Placeholder → Option Reg} {p : Microprogram} {S : MicroStep} {k : Token} {g : Signal}
    (hS : S ∈ p) (hk : k ∈ S) (hg : k.resolve field = some g) (hw : g.writesSr = true) : g ∈ srWriters field p :=
  List.mem_filter.mpr ⟨List.mem_filterMap.mpr ⟨k, List.mem_flatten.mpr ⟨S, hS, hk⟩, hg⟩, hw⟩

/-- No other signal changes SR. -/
theorem execSignal_sr {g : Signal} {s t : State} (hg : g.writesSr = false) (h : execSignal g s = .next t) : t.sr = s.sr := by
  cases g with
  | aluSr | ibSr | cli | sti => cases hg
  | read | write => obtain ⟨-, rfl⟩ := arm_eq_next h; rfl
  | inta => obtain ⟨k, -, rfl⟩ := acknowledge_eq_next h; rfl
  | _ => cases h; rfl

theorem sequenceStep_sr {S : MicroStep} {s t : State} (h : sequenceStep S s = .next t) : t.sr = s.sr := by
  obtain ⟨c, rfl⟩ | rfl | ⟨c, a, rfl⟩ | rfl := sequenceStep_eq_next h <;> rfl

/-- The signal keeps the part `f` of SR. -/
def Signal.KeepsSr {α : Type} (f : BitVec 5 → α) (g : Signal) : Prop :=
  ∀ s t : State, execSignal g s = .next t → f t.sr = f s.sr

section
variable {α : Type} {f : BitVec 5 → α} {field : Placeholder → Option Reg} {s t : State}

/-- A pulse keeps the part of SR that each of its SR-writing signals keeps: sequencing and ticks write no SR. -/
theorem pulseWith_sr {S : MicroStep} (hf : ∀ k ∈ S, ∀ g, k.resolve field = some g → g.writesSr = true → g.KeepsSr f)
    (h : pulseWith field S s = .next t) : f t.sr = f s.sr := by
  have hsignal : ∀ k ∈ S, ∀ g, k.resolve field = some g → g.KeepsSr f := fun k hk g hg => by
    cases hw : g.writesSr with
    | true => exact hf k hk g hg hw
    | false => exact fun _ _ hv => congrArg f (execSignal_sr hw hv)
  exact pulseWith_induction (P := fun u => f u.sr = f s.sr)
    (hsignal := fun k hk g hg u v hv hu => (hsignal k hk g hg u v hv).trans hu)
    (hsequence := fun u v hv hu => (congrArg f (sequenceStep_sr hv)).trans hu)
    (hmemory := fun u v hv hu => (congrArg f (memTick_keepsDispatch hv).sr).trans hu)
    (hdevice := fun u k hu => (congrArg f (deviceTick_keepsDispatch u k).sr).trans hu)
    (hclear := fun _ hu => hu) (hstop := fun _ hu => hu) h rfl

/-- A run of microsteps keeps the part of SR that each of its SR-writing signals keeps. -/
theorem runSteps_sr {p : Microprogram} (hf : ∀ g ∈ srWriters field p, g.KeepsSr f) (h : runSteps field p s = .next t) :
    f t.sr = f s.sr := by
  have hstep : ∀ S ∈ p, ∀ k ∈ S, ∀ g, k.resolve field = some g → g.writesSr = true → g.KeepsSr f :=
    fun S hS k hk g hg hw => hf g (mem_srWriters hS hk hg hw)
  clear hf
  induction p generalizing s with
  | nil => cases h; rfl
  | cons S p ih =>
    obtain ⟨u, hu, h⟩ := andThen_eq_next h
    exact (ih h fun T hT => hstep T (List.mem_cons_of_mem _ hT)).trans (pulseWith_sr (hstep S List.mem_cons_self) hu)

/-- An instruction keeps the part of SR that each SR-writing signal of its own program keeps; BRFALSE has none (R262). -/
theorem exec_sr {i : Instr} (hf : ∀ g ∈ srWriters i.field (programOf i.opcode), g.KeepsSr f) (h : exec i s = .next t) :
    f t.sr = f s.sr := by
  rw [exec_eq_runProgram] at h
  refine runSteps_sr (s := s.enter i _) ?_ h
  obtain hd | hd := dispatchOpcode_cases i s.sr <;> rw [hd]
  · exact hf
  · exact fun _ hg => absurd hg List.not_mem_nil

end

/-- The signal `alu-sr` keeps IF (R179). -/
theorem keepsSr_aluSr : Signal.aluSr.KeepsSr srIf := fun _ _ h => by cases h; exact srIf_packSr ..

/-- SF, OF, CF and ZF of a status word (R27). -/
def conditionFlags (sr : BitVec 5) : Bool × Bool × Bool × Bool := (srSf sr, srOf sr, srCf sr, srZf sr)

/-- The signals `cli` and `sti` keep the four condition flags (R188, R189). -/
theorem keepsSr_cli : Signal.cli.KeepsSr conditionFlags := fun _ _ h => by
  cases h; simp [conditionFlags, clearIf_eq]

theorem keepsSr_sti : Signal.sti.KeepsSr conditionFlags := fun _ _ h => by
  cases h; simp [conditionFlags, setIf_eq]

/-- Outside 46_instr_alu.md, only CLI, STI, INT and IRET have a step that writes SR (R340, R376 to R379). -/
theorem srWriters_none {i : Instr} (hflags : i.setsFlags = false) (hif : i.setsIf = false) :
    srWriters i.field (programOf i.opcode) = [] := by
  cases i with
  | add | sub | or | and | xor | cmp | not | inc | dec | neg => cases hflags
  | cli | sti | int | iret => cases hif
  | _ => rfl

/-- An instruction of 46_instr_alu.md writes SR by one `alu-sr` (R340). -/
theorem srWriters_alu {i : Instr} (hflags : i.setsFlags = true) : srWriters i.field (programOf i.opcode) = [.aluSr] := by
  cases i with
  | add | sub | or | and | xor | cmp | not | inc | dec | neg => rfl
  | _ => cases hflags

/-- CLI and INT write SR by one `cli`, STI by one `sti` (R376, R378, R379). -/
theorem srWriters_interruptFlag {i : Instr} (hi : i = .cli ∨ i = .sti ∨ ∃ k, i = .int k) :
    srWriters i.field (programOf i.opcode) = [.cli] ∨ srWriters i.field (programOf i.opcode) = [.sti] := by
  obtain rfl | rfl | ⟨k, rfl⟩ := hi
  · exact .inl rfl
  · exact .inr rfl
  · exact .inl rfl

/-- Settles O38: each class of instructions has its own SR-writing signals, which keep the rest of SR. -/
theorem statusRegisterFrame : Obligations.StatusRegisterFrame := by
  intro i s t _ _ h
  refine ⟨fun hflags hif => ?_, fun hflags => ?_, fun hi => ?_⟩
  · exact exec_sr (f := id) (srWriters_none hflags hif ▸ List.forall_mem_nil _) h
  · exact exec_sr (srWriters_alu hflags ▸ List.forall_mem_singleton.mpr keepsSr_aluSr) h
  · have hflags : conditionFlags t.sr = conditionFlags s.sr := by
      obtain hw | hw := srWriters_interruptFlag hi
      · exact exec_sr (hw ▸ List.forall_mem_singleton.mpr keepsSr_cli) h
      · exact exec_sr (hw ▸ List.forall_mem_singleton.mpr keepsSr_sti) h
    simpa only [conditionFlags, Prod.mk.injEq] using hflags

end Sys2Proof.Machine
end

section
/-! PROOFS. Jumps, calls, the return and the conditional branches (47_instr_control.md R360 to R375): the last steps that load PC,
and what stands before them, which is nothing, a push or a pop. -/

namespace Sys2Proof.Machine

section
variable {field : Placeholder → Option Reg} {s : State}

/-! ### The operand byte -/

/-- Entering an instruction with an operand byte latches that byte (R26, log 5). -/
theorem State.enter_of_operandByte {i : Instr} {k : Byte} (h : i.operandByte = some k) (first : Fin 106) :
    s.enter i first = { s.latch k with upc := first } := by
  simp only [State.enter, h, State.latch]

/-- A jump puts its own byte in IR, whatever byte was latched before (R360). -/
theorem State.jumped_latch (k : Byte) (d : Int) : (s.latch k).jumped d = s.jumped d := by
  simp only [State.jumped, State.latch, highByte_bytes]

/-! ### The state after a pop -/

/-- What *pop* leaves (R261). -/
def State.afterPop (s : State) (v : Word) (ds : List Device) : State :=
  { s.popped v ds with ib := s.reg spReg + 1, upc := s.upc + 1 + 1 + 1, stepCount := s.stepCount + 1 + 1 + 1 }

/-- A pop leaves no access in progress (R74). -/
theorem afterPop_quiet {a : Nat} {v : Word} {ds : List Device} (hq : Quiet s) (hr : s.getPos a = some (v, ds)) :
    Quiet (s.afterPop v ds) :=
  ⟨hq.idle, hq.count, State.getPos_quiet hr hq.devices⟩

/-! ### The last steps -/

/-- The relative jump from a state whose IR holds its displacement, up to what the end of an instruction forgets (R288, R360). -/
theorem runSteps_relative_latched {t : State} {d : Int} (hd : displacementFits d) (hq : Quiet s) (hm : s.runsToFin)
    (hs : { s with ib := 0, upc := 0, stepCount := 0 } = { t.latch (dispBits d) with ib := 0, upc := 0, stepCount := 0 }) :
    runSteps field relativeJump s = .next (t.jumped d).finish := by
  have hir : s.ir = (t.latch (dispBits d)).ir := (congrArg State.ir hs :)
  rw [runSteps_relative hd (by rw [hir]; exact lowByte_bytes ..) hq hm, ← State.jumped_latch (s := t) (dispBits d)]
  exact (congrArg (fun u : State => (.next (u.jumped d).finish : Result)) hs :)

/-- The step that loads PC from a register's field (R362, R364). -/
theorem runSteps_registerToPc {rx : Reg} (hq : Quiet s) (hm : s.runsToFin) (hx : field .rx = some rx) :
    runSteps field [[.phIb .rx, .sig .ibPc, .sig .fin]] s = .next { s with ib := s.reg rx, pc := s.reg rx }.finish := by
  refine runSteps_last hq hm ?_ rfl rfl rfl rfl
  simp only [execTokens, execToken_phIb hx rfl, andThen_next]
  rfl

/-- The step that loads PC from MDR (R365). -/
theorem runSteps_mdrToPc (hq : Quiet s) (hm : s.runsToFin) :
    runSteps field [[.sig .mdrIb, .sig .ibPc, .sig .fin]] s = .next { s with ib := s.mdr, pc := s.mdr }.finish :=
  runSteps_last hq hm rfl rfl rfl rfl rfl

end

/-! ### The instructions -/

/-- A conditional branch is the relative jump, or a step that only ends it (R366, R375). -/
theorem conditionalBranch_eq {i : Instr} {s : State} {d : Int} (k : Condition) (hi : i.operandByte = some (dispBits d))
    (hd : displacementFits d) (hq : Quiet s) (hm : s.runsToFin) :
    conditionalBranch i k s =
      if condTrue k s.sr then .next (s.jumped d).finish else .next (s.latch (dispBits d)).finish := by
  unfold conditionalBranch runProgram
  congr 1
  · refine runSteps_relative_latched hd (hq.enter i 91) hm ?_
    rw [State.enter_of_operandByte hi]
  · refine (runSteps_onlyFin (hq.enter i 94) hm).trans ?_
    rw [State.enter_of_operandByte hi]
    rfl

/-- Settles O33: JR is the relative jump, JMP a single step. -/
theorem jumpResult : Obligations.JumpResult := fun s hq hm =>
  ⟨fun d hd => ⟨runSteps_relative_latched (s := s.enter (.jr d) 71) hd (hq.enter _ _) hm rfl, rfl⟩,
    fun rx => runSteps_registerToPc (s := s.enter (.jmp rx) 74) (hq.enter _ _) hm rfl⟩

/-- Settles O34: PC is pushed before it is loaded, so that CALL reads its register from those that the push has left. -/
theorem callResult : Obligations.CallResult := by
  intro s r hq hm hw
  refine ⟨fun d hd => ?_, fun rx => ?_⟩
  · have hpush := runSteps_push (field := (Instr.callr d).field) (s := s.enter (.callr d) 75) (rest := relativeJump)
      (hq.enter _ _) hm (fun u _ hpc => execToken_pcIb hpc) rfl rfl hw
    exact hpush.trans (runSteps_relative_latched hd (afterPush_quiet (hq.enter _ _) hw) hm rfl)
  · have hpush := runSteps_push (field := (Instr.call rx).field) (s := s.enter (.call rx) 82)
      (rest := [[.phIb .rx, .sig .ibPc, .sig .fin]]) (hq.enter _ _) hm (fun u _ hpc => execToken_pcIb hpc) rfl rfl hw
    exact hpush.trans (runSteps_registerToPc (afterPush_quiet (hq.enter _ _) hw) hm rfl)

/-- Settles O35: the pop's word reaches PC through MDR. -/
theorem returnResult : Obligations.ReturnResult := by
  intro s v ds hq hm hr
  exact (runSteps_pop (s := s.enter .ret 87) (hq.enter _ _) hm hr).trans
    ((runSteps_mdrToPc (afterPop_quiet (hq.enter _ _) hr) hm).trans (next_finish_congr rfl))

/-- Settles O36: the eight branches differ in their condition alone. -/
theorem conditionalBranchResult : Obligations.ConditionalBranchResult := fun _ _ hd hq hm =>
  ⟨conditionalBranch_eq .c rfl hd hq hm, conditionalBranch_eq .nc rfl hd hq hm, conditionalBranch_eq .o rfl hd hq hm,
    conditionalBranch_eq .no rfl hd hq hm, conditionalBranch_eq .z rfl hd hq hm, conditionalBranch_eq .nz rfl hd hq hm,
    conditionalBranch_eq .s rfl hd hq hm, conditionalBranch_eq .ns rfl hd hq hm⟩

end Sys2Proof.Machine
end

section
/-! PROOFS. The interrupt flag, the software interrupt and the return from an interrupt (47_instr_control.md R376 to R379): the two pushes
of a frame, and the pop into PC. -/

namespace Sys2Proof.Machine

section
variable {field : Placeholder → Option Reg} {s : State} {rest : Microprogram}

/-! ### The last steps -/

/-- The last step of INT: PC is loaded from MDR and IF is cleared (R376). -/
theorem runSteps_mdrToPc_cli (hq : Quiet s) (hm : s.runsToFin) :
    runSteps field [[.sig .mdrIb, .sig .ibPc, .sig .cli, .sig .fin]] s =
      .next { s with
        ib := s.mdr
        pc := s.mdr
        sr := packSr false (srSf s.sr) (srOf s.sr) (srCf s.sr) (srZf s.sr) }.finish := by
  rw [← clearIf_eq]
  exact runSteps_last hq hm rfl rfl rfl rfl rfl

/-- The last step of IRET: SR is loaded from MDR (R377). -/
theorem runSteps_mdrToSr (hq : Quiet s) (hm : s.runsToFin) :
    runSteps field [[.sig .mdrIb, .sig .ibSr, .sig .fin]] s = .next { s with ib := s.mdr, sr := s.mdr.setWidth 5 }.finish :=
  runSteps_last hq hm rfl rfl rfl rfl rfl

/-! ### Addresses of two states with the same storage -/

theorem getPos_congr {t : State} (hmodules : t.modules = s.modules) (hcells : t.cells = s.cells) (hcfg : t.cfg = s.cfg)
    (hdevices : t.devices = s.devices) (a : Nat) : t.getPos a = s.getPos a := by
  unfold State.getPos State.inModule
  rw [hmodules, hcells, hcfg, hdevices]

theorem setPos_congr {t : State} (hmodules : t.modules = s.modules) (hcells : t.cells = s.cells) (hcfg : t.cfg = s.cfg)
    (hdevices : t.devices = s.devices) (a : Nat) (v : Word) : t.setPos a v = s.setPos a v := by
  unfold State.setPos State.inModule
  rw [hmodules, hcells, hcfg, hdevices]

/-! ### Two pushes -/

/-- The stack pointer after one push and the next decrement. -/
theorem afterPush_reg_sub_one (s : State) (v : Word) (r : Memory × List Device) :
    (s.afterPush v r).reg spReg - 1 = s.reg spReg - 2 := by
  rw [afterPush_reg_spReg]
  bv_omega

/-- The push of SR where nothing is mapped (R256, R376, R404). -/
theorem runSteps_pushSr_unmapped (hq : Quiet s) (hm : s.runsToFin)
    (hw : s.setPos (s.reg spReg - 1).toNat (s.sr.setWidth 16) = none) :
    runSteps field (pushAddress ++ (storeSr ++ rest)) s =
      .fault (.noModuleOrDevice
        ({ s.pushed with mdr := s.sr.setWidth 16, ib := s.sr.setWidth 16 }.stuckAt .write (s.upc + 1 + 1 + 1 + 1) 4)) := by
  rw [runSteps_pushAddress hq hm]
  refine (runSteps_store_unmapped (S := .sig .srIb) ?_ ?_ ?_ rfl rfl ?_).trans rfl
  · exact hq.of_eq rfl rfl rfl
  · exact hm
  · exact fun _ _ _ hsr => execToken_srIb hsr
  · exact hw

/-- What the pushes of SR and of PC leave, the write of PC having answered `r` (R376). -/
def State.framed (s : State) (r : Memory × List Device) : State :=
  { ((s.withMemory r).withAlu (s.reg spReg - 1) 0xFFFF (s.reg spReg - 2) (s.reg spReg - 1 != 0)
        (s.reg spReg - 1 == 0x8000)).setReg spReg (s.reg spReg - 2) with
    tmpe := 0xFFFF
    tmps := s.reg spReg - 2
    mar := s.reg spReg - 2
    mdr := s.pc
    ib := s.pc
    upc := s.upc + 4 + 4
    stepCount := s.stepCount + 4 + 4 }

theorem afterPush_afterPush (s : State) (r1 r2 : Memory × List Device) :
    (s.afterPush (s.sr.setWidth 16) r1).afterPush s.pc r2 = s.framed r2 := by
  have hsp : s.reg spReg - 1 - 1 = s.reg spReg - 2 := by bv_omega
  have hreg : ((s.afterPush (s.sr.setWidth 16) r1).withMemory r2).reg spReg = s.reg spReg - 1 :=
    afterPush_reg_spReg s (s.sr.setWidth 16) r1
  have hregs : ∀ x, (s.afterPush (s.sr.setWidth 16) r1).regs.set spReg.val x = s.regs.set spReg.val x := fun x =>
    Vector.set_set ..
  rw [State.framed, State.afterPush]
  simp only [State.pushed, hreg, hsp, State.setReg, State.withAlu, State.withMemory_regs, hregs]
  rfl

section
variable {r1 r2 : Memory × List Device} (hq : Quiet s) (hm : s.runsToFin)
  (h1 : s.setPos (s.reg spReg - 1).toNat (s.sr.setWidth 16) = some r1)
include hq hm h1

/-- INT's two pushes where both addresses are mapped (R376). -/
theorem runSteps_pushFrame (h2 : (s.withMemory r1).setPos (s.reg spReg - 2).toNat s.pc = some r2) :
    runSteps field (pushAddress ++ (storeSr ++ (pushAddress ++ [.sig .pcIb, .sig .ibMdr, .sig .write] :: [] :: rest))) s =
      runSteps field rest (s.framed r2) := by
  rw [runSteps_pushSr hq hm h1, ← afterPush_afterPush s r1 r2]
  refine runSteps_push (afterPush_quiet hq h1) hm (fun u _ hpc => execToken_pcIb hpc) rfl rfl ?_
  rw [afterPush_reg_sub_one]
  exact h2

/-- INT's two pushes where the second address is unmapped: SR is stored (R376, R404). -/
theorem runSteps_pushFrame_unmapped (h2 : (s.withMemory r1).setPos (s.reg spReg - 2).toNat s.pc = none) :
    runSteps field (pushAddress ++ (storeSr ++ (pushAddress ++ [.sig .pcIb, .sig .ibMdr, .sig .write] :: [] :: rest))) s =
      .fault (.noModuleOrDevice
        ({ (s.withMemory r1).pushed.pushed with mdr := s.pc, ib := s.pc }.stuckAt .write (s.upc + 4 + 1 + 1 + 1 + 1) 8)) := by
  rw [runSteps_pushSr hq hm h1]
  refine (runSteps_push_unmapped (afterPush_quiet hq h1) hm (fun u _ hpc => execToken_pcIb hpc) rfl rfl ?_).trans rfl
  rw [afterPush_reg_sub_one]
  exact h2

end

/-- The two pushes leave no access in progress (R74). -/
theorem framed_quiet {r1 r2 : Memory × List Device} {a b : Nat} {v w : Word} (hq : Quiet s) (h1 : s.setPos a v = some r1)
    (h2 : (s.withMemory r1).setPos b w = some r2) : Quiet (s.framed r2) :=
  ⟨hq.idle, hq.count, State.setPos_quiet h2 (State.setPos_quiet h1 hq.devices)⟩

/-! ### The word at the vector -/

theorem afterRead_quiet {b : Nat} {a w : Word} {ds : List Device} (hq : Quiet s) (hr : s.getPos b = some (w, ds)) :
    Quiet (afterRead s a w ds) :=
  ⟨rfl, rfl, State.getPos_quiet hr hq.devices⟩

/-- A read leaves of memory mode and counter what it found: no access in progress. -/
theorem afterRead_eq {a w : Word} {ds : List Device} (hq : Quiet s) :
    afterRead s a w ds =
      { s.clearCarry with
        ib := a, mar := a, mdr := w, devices := ds, upc := s.upc + 1 + 1, stepCount := s.stepCount + 1 + 1 } := by
  rw [afterRead, ← hq.idle, ← hq.count]
  rfl

/-- The word at the address that the token `X` drives goes to PC, and IF is cleared (R376). -/
theorem runSteps_jumpThrough {X : Token} {a w : Word} {ds : List Device} (hq : Quiet s) (hm : s.runsToFin)
    (hX : execToken field X s.clearCarry = .next { s.clearCarry with ib := a }) (hf : X.isFin = false) (hi : X.isIbIr = false)
    (hr : s.getPos a.toNat = some (w, ds)) :
    runSteps field [[X, .sig .ibMar, .sig .read], [], [.sig .mdrIb, .sig .ibPc, .sig .cli, .sig .fin]] s =
      .next { s with
        mar := a
        mdr := w
        ib := w
        pc := w
        devices := ds
        sr := packSr false (srSf s.sr) (srOf s.sr) (srCf s.sr) (srZf s.sr) }.finish := by
  refine (runSteps_read hq hm hX hf hi hr).trans ((runSteps_mdrToPc_cli (afterRead_quiet hq hr) hm).trans ?_)
  rw [afterRead_eq hq]
  rfl

theorem execToken_irlIbl {k : Byte} {u : State} (h : lowByte u.ir = k) :
    execToken field (.sig .irlIbl) u = .next { u with ib := bytes 0 k } :=
  h ▸ rfl

/-! ### A pop into PC -/

/-- What the pop of PC leaves (R377). -/
def State.afterPopPc (s : State) (p : Word) (ds : List Device) : State :=
  { s.popped p ds with pc := p, ib := p, upc := s.upc + 4, stepCount := s.stepCount + 4 }

theorem afterPopPc_quiet {a : Nat} {p : Word} {ds : List Device} (hq : Quiet s) (hr : s.getPos a = some (p, ds)) :
    Quiet (s.afterPopPc p ds) :=
  ⟨hq.idle, hq.count, State.getPos_quiet hr hq.devices⟩

theorem afterPopPc_reg_spReg (s : State) (p : Word) (ds : List Device) :
    (s.afterPopPc p ds).reg spReg = s.reg spReg + 1 :=
  State.setReg_reg_same s spReg (s.reg spReg + 1)

theorem runSteps_popPc {p : Word} {ds : List Device} (hq : Quiet s) (hm : s.runsToFin)
    (hr : s.getPos (s.reg spReg).toNat = some (p, ds)) :
    runSteps field (popSequence ++ [.sig .mdrIb, .sig .ibPc] :: rest) s = runSteps field rest (s.afterPopPc p ds) := by
  have hpopped : Quiet (s.afterPop p ds) := afterPop_quiet hq hr
  have hupc : s.upc + 1 + 1 + 1 + 1 = s.upc + 4 := by
    rw [add_assoc, add_assoc, add_assoc]
    rfl
  have hload : pulseWith field [.sig .mdrIb, .sig .ibPc] (s.afterPop p ds) = .next (s.afterPopPc p ds) := by
    refine (pulse_plain (t := { (s.afterPop p ds).clearCarry with ib := p, pc := p }) rfl hm rfl rfl hpopped.idle
      hpopped.devices).trans (congrArg Host.Outcome.next ?_)
    rw [State.afterPopPc, ← hupc]
    rfl
  exact (runSteps_pop hq hm hr).trans (runSteps_cons hload)

/-- The two increments of IRET's pops in one record. -/
theorem popped_afterPopPc (s : State) (p v : Word) (ds1 ds2 : List Device) :
    (s.afterPopPc p ds1).popped v ds2 =
      { (s.withAlu (s.reg spReg + 1) 0 (s.reg spReg + 2) (s.reg spReg + 1 == 0xFFFF)
            (s.reg spReg + 1 == 0x7FFF)).setReg spReg (s.reg spReg + 2) with
        pc := p
        tmpe := 0
        tmps := s.reg spReg + 2
        mar := s.reg spReg + 1
        mdr := v
        ib := p
        devices := ds2
        upc := s.upc + 4
        stepCount := s.stepCount + 4 } := by
  have hsp : s.reg spReg + 1 + 1 = s.reg spReg + 2 := by bv_omega
  have hregs : ∀ x, (s.afterPopPc p ds1).regs.set spReg.val x = s.regs.set spReg.val x := fun x => Vector.set_set ..
  simp only [State.popped, afterPopPc_reg_spReg, hsp, State.setReg, State.withAlu, hregs]
  rfl

end

/-! ### The instructions -/

/-- Settles O29: each of the two is a single step. -/
theorem interruptFlagResult : Obligations.InterruptFlagResult := by
  intro s hq hm
  rw [← clearIf_eq, ← setIf_eq]
  exact ⟨runSteps_last (t := { s.enter .cli 50 with sr := clearIf s.sr }) (hq.enter .cli 50) hm rfl rfl rfl rfl rfl,
    runSteps_last (t := { s.enter .sti 51 with sr := setIf s.sr }) (hq.enter .sti 51) hm rfl rfl rfl rfl rfl⟩

/-- INT's steps after its two pushes (R376). -/
def intVector : Microprogram :=
  [[.sig .irlIbl, .sig .ibMar, .sig .read], [], [.sig .mdrIb, .sig .ibPc, .sig .cli, .sig .fin]]

/-- INT is two pushes and the jump through its vector (R376). -/
theorem exec_int (k : Byte) (s : State) :
    exec (.int k) s =
      runSteps (Instr.int k).field
        (pushAddress ++ (storeSr ++ (pushAddress ++ [.sig .pcIb, .sig .ibMdr, .sig .write] :: [] :: intVector)))
        (s.enter (.int k) 52) := rfl

/-- IRET is two pops, into PC and into SR (R377). -/
theorem exec_iret (s : State) :
    exec .iret s =
      runSteps Instr.iret.field
        (popSequence ++ [.sig .mdrIb, .sig .ibPc] :: (popSequence ++ [[.sig .mdrIb, .sig .ibSr, .sig .fin]]))
        (s.enter .iret 63) := rfl

/-- INT's vector is the operand byte that entering it has left in IR, and its two pushes keep. -/
theorem lowByte_framed_enter (s : State) (k : Byte) (r2 : Memory × List Device) :
    lowByte ((s.enter (.int k) 52).framed r2).ir = k :=
  lowByte_bytes (highByte s.ir) k

/-- Settles O30: the two pushes, and the jump through the word at the vector. -/
theorem softwareInterruptResult : Obligations.SoftwareInterruptResult := by
  intro k s r1 r2 h ds hq hm sp1 sp2 h1 h2 hr
  have hframed : Quiet ((s.enter (.int k) 52).framed r2) := framed_quiet (hq.enter _ _) h1 h2
  have hvector : ((s.enter (.int k) 52).framed r2).getPos (bytes 0 k).toNat = some (h, ds) := by
    rw [toNat_bytes_zero]
    exact (getPos_congr rfl rfl rfl rfl k.toNat).trans hr
  rw [exec_int, runSteps_pushFrame (hq.enter _ _) hm h1 h2]
  refine (runSteps_jumpThrough hframed hm (execToken_irlIbl (lowByte_framed_enter s k r2)) rfl rfl hvector).trans ?_
  exact next_finish_congr rfl

/-- Settles O31: the pop of PC, the pop of SR's word, and its low five bits into SR. -/
theorem interruptReturnResult : Obligations.InterruptReturnResult := by
  intro s p v ds1 ds2 hq hm sp h1 h2
  have hfirst : Quiet ((s.enter .iret 63).afterPopPc p ds1) := afterPopPc_quiet (hq.enter _ _) h1
  have hget : ((s.enter .iret 63).afterPopPc p ds1).getPos (((s.enter .iret 63).afterPopPc p ds1).reg spReg).toNat =
      some (v, ds2) := by
    rw [afterPopPc_reg_spReg]
    exact h2
  rw [exec_iret, runSteps_popPc (hq.enter _ _) hm h1]
  refine (runSteps_pop hfirst hm hget).trans ((runSteps_mdrToSr (afterPop_quiet hfirst hget) hm).trans ?_)
  rw [State.afterPop, popped_afterPopPc]
  exact next_finish_congr rfl

end Sys2Proof.Machine
end

section
/-! PROOFS. The registry's choice (60_exceptions.md R425, R426): the requesting device with the lowest priority number, the first registered
among equals. -/

namespace Sys2Proof.Machine

/-- The device at place `i` is `d`, requests, and comes before every other requesting one: by its priority, or among equals by its
place (R426). -/
def IsBest (ds : List Device) (i : Nat) (d : Device) : Prop :=
  ds[i]? = some d ∧ d.requesting = true
    ∧ ∀ (j : Nat) (e : Device), ds[j]? = some e → e.requesting = true →
        d.priority ≤ e.priority ∧ (j < i → d.priority < e.priority)

/-- At most one place is best. -/
theorem IsBest.unique {ds : List Device} {i j : Nat} {d e : Device} (hi : IsBest ds i d) (hj : IsBest ds j e) : i = j := by
  obtain ⟨hd, hdreq, hdbest⟩ := hi
  obtain ⟨he, hereq, hebest⟩ := hj
  obtain ⟨hle, hlt⟩ := hdbest j e he hereq
  obtain ⟨hle', hlt'⟩ := hebest i d hd hdreq
  by_contra hne
  rcases Nat.lt_or_gt_of_ne hne with h | h
  · exact absurd (hlt' h) (Nat.not_lt.mpr hle)
  · exact absurd (hlt h) (Nat.not_lt.mpr hle')

/-- The first of a list is best if it requests and no later requesting device has a lower priority number. -/
theorem isBest_zero {d : Device} {ds : List Device} (hd : d.requesting = true)
    (h : ∀ e ∈ ds, e.requesting = true → d.priority ≤ e.priority) : IsBest (d :: ds) 0 d := by
  refine ⟨rfl, hd, fun j e hj hreq => ⟨?_, nofun⟩⟩
  rcases List.mem_cons.mp (List.mem_of_getElem? hj) with rfl | he
  · exact Nat.le_refl _
  · exact h e he hreq

/-- The best of a list stays best behind a device that does not request or has a higher priority number. -/
theorem IsBest.cons {d e : Device} {ds : List Device} {i : Nat} (h : IsBest ds i d)
    (he : e.requesting = true → d.priority < e.priority) : IsBest (e :: ds) (i + 1) d := by
  obtain ⟨hd, hreq, hbest⟩ := h
  refine ⟨by simpa using hd, hreq, fun j f hj hf => ?_⟩
  cases j with
  | zero =>
    obtain rfl : e = f := by simpa using hj
    exact ⟨Nat.le_of_lt (he hf), fun _ => he hf⟩
  | succ j =>
    obtain ⟨hle, hlt⟩ := hbest j f (by simpa using hj) hf
    exact ⟨hle, fun h => hlt (Nat.lt_of_succ_lt_succ h)⟩

/-- The registry finds no device exactly where none requests (R426). -/
theorem nextIntFrom_eq_none_iff {n : Nat} {ds : List Device} : nextIntFrom n ds = none ↔ intDevices ds = [] := by
  induction ds generalizing n with
  | nil => exact ⟨fun _ => rfl, fun _ => rfl⟩
  | cons e ds ih =>
    have hcons : intDevices (e :: ds) = [] ↔ e.requesting = false ∧ intDevices ds = [] := by
      simp [intDevices, List.filter_eq_nil_iff]
    rw [hcons, ← ih (n := n + 1), nextIntFrom]
    cases nextIntFrom (n + 1) ds with
    | none => cases e.requesting <;> simp
    | some r =>
      refine iff_of_false ?_ fun h => nomatch h.2
      show ¬(if _ then some (n, e.priority) else some (r.1, r.2)) = none
      split <;> nofun

/-- The place and the priority that the registry finds are those of the best device (R426). -/
theorem nextIntFrom_isBest {n k p : Nat} {ds : List Device} (h : nextIntFrom n ds = some (k, p)) :
    ∃ i d, k = n + i ∧ p = d.priority ∧ IsBest ds i d := by
  induction ds generalizing n k p with
  | nil => cases h
  | cons e ds ih =>
    unfold nextIntFrom at h
    split at h
    next hnone =>
      have hidle : ∀ f ∈ ds, f.requesting ≠ true := List.filter_eq_nil_iff.mp (nextIntFrom_eq_none_iff.mp hnone)
      split at h
      next hreq => cases h; exact ⟨0, e, rfl, rfl, isBest_zero hreq fun f hf hfreq => absurd hfreq (hidle f hf)⟩
      next => cases h
    next j q hj =>
      obtain ⟨i, d, rfl, rfl, hbest⟩ := ih hj
      split at h <;> cases h
      next hwins =>
        obtain ⟨hreq, hle⟩ : e.requesting = true ∧ e.priority ≤ d.priority := by simpa using hwins
        refine ⟨0, e, rfl, rfl, isBest_zero hreq fun f hf hfreq => ?_⟩
        obtain ⟨-, -, hmin⟩ := hbest
        obtain ⟨j, hj⟩ := List.mem_iff_getElem?.mp hf
        exact hle.trans (hmin j f hj hfreq).1
      next hloses =>
        refine ⟨i + 1, d, by omega, rfl, hbest.cons fun hreq => ?_⟩
        simpa [hreq] using hloses

theorem nextInt_isBest {k : Nat} {ds : List Device} (h : nextInt ds = some k) : ∃ d, IsBest ds k d := by
  obtain ⟨⟨j, p⟩, hj, rfl⟩ := Option.map_eq_some_iff.mp h
  obtain ⟨i, d, rfl, -, hd⟩ := nextIntFrom_isBest hj
  exact ⟨d, by simpa using hd⟩

/-- Settles O42: the registry finds a best device where one requests, and no other place is best. -/
theorem bestPendingDeviceIsServed : Obligations.BestPendingDeviceIsServed := by
  intro ds
  refine ⟨rfl, Option.map_eq_none_iff.trans nextIntFrom_eq_none_iff, fun k => ⟨nextInt_isBest, fun ⟨d, hd⟩ => ?_⟩⟩
  obtain ⟨hk, hreq, -⟩ := id hd
  cases h : nextInt ds with
  | none =>
    have hidle : intDevices ds = [] := nextIntFrom_eq_none_iff.mp (Option.map_eq_none_iff.mp h)
    exact absurd hreq (List.filter_eq_nil_iff.mp hidle d (List.mem_of_getElem? hk))
  | some j =>
    obtain ⟨e, he⟩ := nextInt_isBest h
    rw [he.unique hd]

end Sys2Proof.Machine
end

section
/-! PROOFS. The unmapped addresses of INT, of IRET and of the interrupt-service block (47_instr_control.md R376, R377; 60_exceptions.md R404,
R417), what INT stores where it goes on, and the frame of an interrupt read back by IRET (R460). -/

namespace Sys2Proof.Machine

/-! ### Unmapped addresses -/

/-- Two runs of *push-address* leave the registers, the ALU and TMPE, TMPS and MAR that two pushes leave (R261). -/
theorem pushed_pushed (s : State) (r : Memory × List Device) :
    (s.withMemory r).pushed.pushed =
      { s.framed r with mdr := s.mdr, ib := s.ib, upc := s.upc, stepCount := s.stepCount } := by
  rw [← afterPush_afterPush s r r]
  rfl

section
variable {s : State} {r1 r2 : Memory × List Device} (hq : Quiet s) (hm : s.runsToFin)
include hq hm

theorem exec_int_unmapped_first (k : Byte) (h1 : s.setPos (s.reg spReg - 1).toNat (s.sr.setWidth 16) = none) :
    exec (.int k) s =
      .fault (.noModuleOrDevice
        (({ s.pushed with mdr := s.sr.setWidth 16, ib := s.sr.setWidth 16 }.latch k).stuckAt .write 56 4)) :=
  runSteps_pushSr_unmapped (s := s.enter (.int k) 52) (hq.enter _ _) hm h1

theorem exec_int_unmapped_second (k : Byte) (h1 : s.setPos (s.reg spReg - 1).toNat (s.sr.setWidth 16) = some r1)
    (h2 : (s.withMemory r1).setPos (s.reg spReg - 2).toNat s.pc = none) :
    exec (.int k) s =
      .fault (.noModuleOrDevice
        (({ (s.withMemory r1).pushed.pushed with mdr := s.pc, ib := s.pc }.latch k).stuckAt .write 60 8)) := by
  rw [exec_int, runSteps_pushFrame_unmapped (hq.enter _ _) hm h1 h2, pushed_pushed, pushed_pushed]
  rfl

theorem exec_int_unmapped_vector (k : Byte) (h1 : s.setPos (s.reg spReg - 1).toNat (s.sr.setWidth 16) = some r1)
    (h2 : (s.withMemory r1).setPos (s.reg spReg - 2).toNat s.pc = some r2) (hr : (s.withMemory r2).getPos k.toNat = none) :
    exec (.int k) s =
      .fault (.noModuleOrDevice
        (({ (s.withMemory r2).pushed.pushed with mdr := s.pc, mar := bytes 0 k, ib := bytes 0 k }.latch
          k).stuckAt .read 62 10)) := by
  have hframed : Quiet ((s.enter (.int k) 52).framed r2) := framed_quiet (hq.enter _ _) h1 h2
  have hvector : ((s.enter (.int k) 52).framed r2).getPos (bytes 0 k).toNat = none := by
    rw [toNat_bytes_zero]
    exact (getPos_congr rfl rfl rfl rfl k.toNat).trans hr
  rw [exec_int, runSteps_pushFrame (hq.enter _ _) hm h1 h2]
  refine (runSteps_read_unmapped hframed hm (execToken_irlIbl (lowByte_framed_enter s k r2)) rfl rfl hvector).trans ?_
  rw [pushed_pushed]
  rfl

theorem exec_iret_unmapped_first (hr : s.getPos (s.reg spReg).toNat = none) :
    exec .iret s =
      .fault (.noModuleOrDevice
        ({ s.popped s.mdr s.devices with regs := s.regs, ib := s.reg spReg }.stuckAt .read 65 2)) :=
  runSteps_pop_unmapped (s := s.enter .iret 63) (hq.enter _ _) hm hr

theorem exec_iret_unmapped_second {p : Word} {ds : List Device} (h1 : s.getPos (s.reg spReg).toNat = some (p, ds))
    (h2 : { s with devices := ds }.getPos (s.reg spReg + 1).toNat = none) :
    exec .iret s =
      .fault (.noModuleOrDevice
        ({ (s.popped p ds).popped p ds with
            regs := (s.popped p ds).regs, pc := p, ib := s.reg spReg + 1 }.stuckAt .read 69 6)) := by
  have hfirst : Quiet ((s.enter .iret 63).afterPopPc p ds) := afterPopPc_quiet (hq.enter _ _) h1
  have hsp : ((s.enter .iret 63).afterPopPc p ds).reg spReg = s.reg spReg + 1 := afterPopPc_reg_spReg ..
  have hget : ((s.enter .iret 63).afterPopPc p ds).getPos (((s.enter .iret 63).afterPopPc p ds).reg spReg).toNat = none := by
    rw [hsp]
    exact (getPos_congr rfl rfl rfl rfl _).trans h2
  rw [exec_iret, runSteps_popPc (hq.enter _ _) hm h1, runSteps_pop_unmapped hfirst hm hget, hsp]
  rfl

end

/-- INT goes on only where its two stores have found their addresses mapped, and leaves the memory that these made (R376). -/
theorem exec_int_next {k : Byte} {s t : State} (hq : Quiet s) (hm : s.runsToFin) (h : exec (.int k) s = .next t) :
    ∃ r1 r2, s.setPos (s.reg spReg - 1).toNat (s.sr.setWidth 16) = some r1
      ∧ (s.withMemory r1).setPos (s.reg spReg - 2).toNat s.pc = some r2
      ∧ t.cells = r2.1 ∧ t.modules = s.modules ∧ t.cfg = s.cfg := by
  cases h1 : s.setPos (s.reg spReg - 1).toNat (s.sr.setWidth 16) with
  | none => rw [exec_int_unmapped_first hq hm k h1] at h; cases h
  | some r1 =>
    cases h2 : (s.withMemory r1).setPos (s.reg spReg - 2).toNat s.pc with
    | none => rw [exec_int_unmapped_second hq hm k h1 h2] at h; cases h
    | some r2 =>
      cases hr : (s.withMemory r2).getPos k.toNat with
      | none => rw [exec_int_unmapped_vector hq hm k h1 h2 hr] at h; cases h
      | some p =>
        rw [softwareInterruptResult k s r1 r2 p.1 p.2 hq hm h1 h2 hr] at h
        cases h
        exact ⟨r1, r2, rfl, h2, rfl, rfl, rfl⟩

/-! ### Unmapped addresses of the interrupt-service block -/

/-- The block's steps after its acknowledge (R256). -/
def blockVector : Microprogram :=
  [[.sig .mdrIb, .sig .ibMar, .sig .read], [], [.sig .mdrIb, .sig .ibPc, .sig .cli, .sig .fin]]

/-- A step at the block's address is the block: the push of SR, the next *push-address*, the store of PC with the acknowledge, and the
jump through the vector (R256, R298). -/
theorem step_of_intAddress {s : State} (hupc : s.upc = intAddress) (hm : s.runsToFin) :
    step s =
      runSteps (fun _ => none)
        (pushAddress ++ (storeSr ++ (pushAddress ++ [.sig .pcIb, .sig .ibMdr, .sig .write, .sig .inta] :: [] :: blockVector)))
        s.start := by
  have hblock : ({ s.start with upc := intAddress } : State) = s.start := by rw [← hupc]; rfl
  have hnotFetch : s.upc ≠ 0 := by rw [hupc]; decide
  rw [step_of_runsToFin hm, if_neg hnotFetch, if_pos hupc, takeInterrupt, hblock]
  rfl

section
variable {field : Placeholder → Option Reg} {s : State} {rest : Microprogram} {k : Nat} {d : Device}

/-- The push of SR and the next *push-address*, where SR's address is mapped (R256). -/
theorem runSteps_toAcknowledge {r : Memory × List Device} (hq : Quiet s) (hm : s.runsToFin)
    (h1 : s.setPos (s.reg spReg - 1).toNat (s.sr.setWidth 16) = some r) :
    runSteps field (pushAddress ++ (storeSr ++ (pushAddress ++ rest))) s =
      runSteps field rest ((s.withMemory r).pushedTwice (s.sr.setWidth 16) r.1) := by
  have hpushed : Quiet (s.afterPush (s.sr.setWidth 16) r) := afterPush_quiet hq h1
  rw [runSteps_pushSr hq hm h1, runSteps_pushAddress hpushed hm, ← pushed_afterPush (s.withMemory r)]
  rfl

theorem pushedTwice_quiet {v : Word} {m : Memory} (hq : Quiet s) : Quiet (s.pushedTwice v m) :=
  hq.of_eq rfl rfl rfl

/-- An address that no device covers stays unmapped while a device is in its interrupt read (R68, R434). -/
theorem State.setPos_none_of_armed {a : Nat} {v : Word} {u : IntRead} (hk : s.devices[k]? = some d)
    (h : s.setPos a v = none) :
    { s with devices := s.devices.set k { d with intRead := u } }.setPos a v = none := by
  rw [State.setPos_eq_none_iff, State.getPos_eq_none_iff] at h ⊢
  exact ⟨h.1, forall_mem_set h.2 (h.2 d (List.mem_of_getElem? hk) :)⟩

/-- The store of PC where nothing is mapped, the acknowledge half done: the error comes at the memory tick of the empty step, before
the device's second tick (R282, R404, R435). -/
theorem runSteps_acknowledge_unmapped (hq : Quiet s) (hm : s.runsToFin) (hn : nextInt s.devices = some k)
    (hk : s.devices[k]? = some d) (hw : s.setPos s.mar.toNat s.pc = none) :
    runSteps field ([.sig .pcIb, .sig .ibMdr, .sig .write, .sig .inta] :: [] :: rest) s =
      .fault (.noModuleOrDevice { s.acknowledging k d with
        upc := s.upc + 1 + 1, stepCount := s.stepCount + 1 + 1, running := false }) := by
  have hunmapped : (s.acknowledging k d).setPos s.mar.toNat s.pc = none :=
    (setPos_congr rfl rfl rfl rfl _ _).trans (State.setPos_none_of_armed (u := .armed1) hk hw)
  exact (runSteps_cons (pulse_acknowledging hq hm hn hk)).trans
    (runSteps_fault (pulse_unwritable (t := s.acknowledging k d) rfl hm rfl rfl rfl rfl hunmapped))

end

section
variable {s : State} (hq : Quiet s) (hm : s.runsToFin) (hupc : s.upc = intAddress)
include hq hm hupc

theorem step_block_unmapped_first (h1 : s.setPos (s.reg spReg - 1).toNat (s.sr.setWidth 16) = none) :
    step s =
      .fault (.noModuleOrDevice
        ({ s.pushed with mdr := s.sr.setWidth 16, ib := s.sr.setWidth 16 }.stuckAt .write 99 4)) := by
  have hstart : Quiet s.start := hq.of_eq rfl rfl rfl
  have hstop : s.upc + 1 + 1 + 1 + 1 = 99 := by rw [hupc]; rfl
  rw [step_of_intAddress hupc hm, ← hstop]
  exact runSteps_pushSr_unmapped hstart hm h1

theorem step_block_unmapped_second {r1 : Memory × List Device} {k : Nat} {d : Device}
    (h1 : s.setPos (s.reg spReg - 1).toNat (s.sr.setWidth 16) = some r1) (hn : nextInt r1.2 = some k) (hk : r1.2[k]? = some d)
    (h2 : (s.withMemory r1).setPos (s.reg spReg - 2).toNat s.pc = none) :
    step s =
      .fault (.noModuleOrDevice
        ({ (s.withMemory r1).pushed.pushed with
            mdr := s.pc
            ib := s.pc
            devices := r1.2.set k { d with intRead := .armed1 } }.stuckAt .write 103 8)) := by
  have hstart : Quiet s.start := hq.of_eq rfl rfl rfl
  have hstop : s.upc + 4 + 1 + 1 + 1 + 1 = 103 := by rw [hupc]; rfl
  have hpushed : Quiet (s.start.withMemory r1) := ⟨hq.idle, hq.count, State.setPos_quiet h1 hq.devices⟩
  rw [step_of_intAddress hupc hm, ← hstop, pushed_pushed, runSteps_toAcknowledge hstart hm h1]
  exact (runSteps_acknowledge_unmapped (pushedTwice_quiet hpushed) hm hn hk ((setPos_congr rfl rfl rfl rfl _ _).trans h2)).trans rfl

/-- The block up to its vector, with the stack in RAM and the device `d` at place `k` chosen (R256, R417). -/
theorem step_block_toVector {k : Nat} {d : Device} (hin1 : s.inModule (s.reg spReg - 1).toNat)
    (hin2 : s.inModule (s.reg spReg - 2).toNat) (hn : nextInt s.devices = some k) (hk : s.devices[k]? = some d) :
    let m := s.cells.write s.cfg.memFill (s.reg spReg - 1).toNat (s.sr.setWidth 16)
    step s = runSteps (fun _ => none) blockVector ((s.start.pushedTwice (s.sr.setWidth 16) m).acknowledged k d)
      ∧ Quiet ((s.start.pushedTwice (s.sr.setWidth 16) m).acknowledged k d) := by
  intro m
  have hstart : Quiet s.start := hq.of_eq rfl rfl rfl
  have hbefore : Quiet (s.start.pushedTwice (s.sr.setWidth 16) m) := pushedTwice_quiet hstart
  refine ⟨?_, acknowledged_quiet hbefore hk⟩
  rw [step_of_intAddress hupc hm]
  exact (runSteps_pushTwice hstart hm hin1).trans (runSteps_acknowledge hbefore hm hin2 hn hk)

theorem step_block_unmapped_vector {k : Nat} {d : Device} (hin1 : s.inModule (s.reg spReg - 1).toNat)
    (hin2 : s.inModule (s.reg spReg - 2).toNat) (hn : nextInt s.devices = some k) (hk : s.devices[k]? = some d)
    (hr : s.getPos (bytes 0 d.vector).toNat = none) :
    let ds := s.devices.set k { d with pending := false }
    step s =
      .fault (.noModuleOrDevice
        ({ s.pushed.pushed with
            cells := (s.cells.write s.cfg.memFill (s.reg spReg - 1).toNat (s.sr.setWidth 16)).write s.cfg.memFill
              (s.reg spReg - 2).toNat s.pc
            devices := ds
            intf := if intDevices ds = [] then false else s.intf
            mar := bytes 0 d.vector
            mdr := bytes 0 d.vector
            ib := bytes 0 d.vector }.stuckAt .read 105 10)) := by
  intro ds
  obtain ⟨hstep, hquiet⟩ := step_block_toVector hq hm hupc hin1 hin2 hn hk
  have hstop : s.upc + 4 + 1 + 1 + 1 + 1 + 1 + 1 = 105 := by rw [hupc]; rfl
  have hunmapped : ∀ c, { s with cells := c, devices := ds }.getPos (bytes 0 d.vector).toNat = none := fun c => by
    rw [State.getPos_eq_none_iff] at hr ⊢
    exact ⟨hr.1, forall_mem_set hr.2 (hr.2 d (List.mem_of_getElem? hk) :)⟩
  rw [hstep, ← hstop]
  refine (runSteps_read_unmapped hquiet hm rfl rfl rfl ((getPos_congr rfl rfl rfl rfl _).trans (hunmapped _))).trans ?_
  have hpushed : s.pushed.pushed = _ := pushed_pushed s (s.cells, s.devices)
  rw [hpushed]
  rfl

end

/-- Settles O32: each clause is the error of a push, of a pop or of the read at the vector. -/
theorem unmappedInterruptFrame : Obligations.UnmappedInterruptFrame := by
  intro s hq hm srWord
  refine ⟨exec_int_unmapped_first hq hm, fun k r1 => exec_int_unmapped_second hq hm k,
    fun k r1 r2 => exec_int_unmapped_vector hq hm k, exec_iret_unmapped_first hq hm, fun p ds => exec_iret_unmapped_second hq hm,
    fun hupc => ⟨step_block_unmapped_first hq hm hupc, fun r1 k d => step_block_unmapped_second hq hm hupc,
      fun k d => step_block_unmapped_vector hq hm hupc⟩⟩

/-! ### Reading the frame back -/

theorem State.setPos_wf {s : State} {a : Nat} {v : Word} {r : Memory × List Device} (hwf : s.cells.wf s.cfg.memFill)
    (hr : s.setPos a v = some r) : r.1.wf s.cfg.memFill := by
  cases hin : s.inModule a with
  | true => rw [State.setPos_inModule hin] at hr; cases hr; exact Memory.wf_write hwf
  | false => rw [State.setPos_cells_of_not_inModule hin hr]; exact hwf

theorem State.setPos_read_same {s : State} {a : Nat} {v : Word} {r : Memory × List Device} (hwf : s.cells.wf s.cfg.memFill)
    (hin : s.inModule a = true) (hr : s.setPos a v = some r) : r.1.read s.cfg.memFill a = v := by
  rw [State.setPos_inModule hin] at hr
  cases hr
  exact Memory.read_write_same hwf

theorem State.peekPos_inModule {s : State} {a : Nat} (h : s.inModule a = true) :
    s.peekPos a = some (s.cells.read s.cfg.memFill a) := by
  rw [State.peekPos, State.getPos_inModule h, Option.map_some]

/-- The two addresses of a frame differ, the stack pointer wrapping or not. -/
theorem sub_one_ne_sub_two (sp : Word) : (sp - 1).toNat ≠ (sp - 2).toNat := by
  bv_omega

/-- Settles O41: the two writes change one word each, and not the same. -/
theorem softwareInterruptStoresTwoWords : Obligations.SoftwareInterruptStoresTwoWords := by
  intro k s t hq hm hwf h sp1 sp2
  obtain ⟨r1, r2, h1, h2, hcells, hmodules, hcfg⟩ := exec_int_next hq hm h
  have hwf1 : (s.withMemory r1).cells.wf (s.withMemory r1).cfg.memFill :=
    State.setPos_wf (s := s) hwf h1
  have hread : ∀ b, b ≠ sp2 → t.cells.read t.cfg.memFill b = r1.1.read s.cfg.memFill b := fun b hb => by
    rw [hcells, hcfg]
    exact State.setPos_read_ne hwf1 h2 hb
  have hmap : ∀ a, t.inModule a = s.inModule a := fun a => by rw [State.inModule, hmodules, State.inModule]
  refine ⟨fun b hb1 hb2 => ?_, fun hin => ?_, fun hin => ?_⟩
  · rw [hread b hb2, State.setPos_read_ne hwf h1 hb1]
  · rw [State.peekPos_inModule (by rw [hmap, hin]), hread sp1 (sub_one_ne_sub_two (s.reg spReg)),
      State.setPos_read_same hwf hin h1]
  · have hin1 : (s.withMemory r1).inModule sp2 = true := hin
    have hpc : r2.1.read s.cfg.memFill sp2 = s.pc := State.setPos_read_same (s := s.withMemory r1) hwf1 hin1 h2
    rw [State.peekPos_inModule (by rw [hmap, hin]), hcells, hcfg, hpc]

/-! ### An interrupt and the return from it -/

/-- Where the block goes on, a device requested and the vector's address was mapped; the frame's two words are stored, and R7 alone
of the general registers has changed (R256, R417). -/
theorem step_block_next {s t : State} (hq : Quiet s) (hm : s.runsToFin) (hupc : s.upc = intAddress)
    (hin1 : s.inModule (s.reg spReg - 1).toNat) (hin2 : s.inModule (s.reg spReg - 2).toNat) (h : step s = .next t) :
    t.regs = (s.setReg spReg (s.reg spReg - 2)).regs ∧ t.cfg = s.cfg
      ∧ t.cells = (s.cells.write s.cfg.memFill (s.reg spReg - 1).toNat (s.sr.setWidth 16)).write s.cfg.memFill
          (s.reg spReg - 2).toNat s.pc := by
  cases hn : nextInt s.devices with
  | none => rw [interruptBlockWithoutDevice s _ hq hupc hm (State.setPos_inModule hin1 _) hn] at h; cases h
  | some k =>
    obtain ⟨d, hk, -⟩ := nextInt_isBest hn
    obtain ⟨hstep, hquiet⟩ := step_block_toVector hq hm hupc hin1 hin2 hn hk
    cases hr : ((s.start.pushedTwice (s.sr.setWidth 16) (s.cells.write s.cfg.memFill (s.reg spReg - 1).toNat
        (s.sr.setWidth 16))).acknowledged k d).getPos (bytes 0 d.vector).toNat with
    | none => rw [hstep, blockVector, runSteps_read_unmapped hquiet hm rfl rfl rfl hr] at h; cases h
    | some p =>
      rw [hstep, blockVector, runSteps_vector hquiet hm hr] at h
      cases h
      exact ⟨rfl, rfl, rfl⟩

/-- Settles O45: IRET finds the two words of the frame at the addresses where the block has stored them. -/
theorem interruptThenReturnRestores : Obligations.InterruptThenReturnRestores := by
  intro s t u hq hupc hm hwf sp1 sp2 hin1 hin2 h huq hum husp huin1 huin2 hu1 hu2
  obtain ⟨hregs, hcfg, hcells⟩ := step_block_next hq hm hupc hin1 hin2 h
  have hreg : ∀ n, t.reg n = (s.setReg spReg (s.reg spReg - 2)).reg n := State.reg_of_regs hregs
  have hsp : u.reg spReg = s.reg spReg - 2 := by rw [husp, hreg, State.setReg_reg_same]
  have hsp1 : u.reg spReg + 1 = s.reg spReg - 1 := by rw [hsp]; bv_omega
  have hword1 : u.cells.read u.cfg.memFill sp1 = s.sr.setWidth 16 := by
    rw [hu1, hcfg, hcells, Memory.read_write_ne (Memory.wf_write hwf) (sub_one_ne_sub_two (s.reg spReg)),
      Memory.read_write_same hwf]
  have hword2 : u.cells.read u.cfg.memFill sp2 = s.pc := by
    rw [hu2, hcfg, hcells, Memory.read_write_same (Memory.wf_write hwf)]
  have hget2 : u.getPos (u.reg spReg).toNat = some (s.pc, u.devices) := by
    rw [hsp, State.getPos_inModule huin2, hword2]
  have hget1 : u.getPos (u.reg spReg + 1).toNat = some (s.sr.setWidth 16, u.devices) := by
    rw [hsp1, State.getPos_inModule huin1, hword1]
  refine ⟨_, interruptReturnResult u _ _ _ _ huq hum hget2 hget1, rfl, ?_, ?_, fun n hn => ⟨?_, ?_⟩, rfl, rfl⟩
  · exact (BitVec.setWidth_setWidth_of_le s.sr (by decide : 5 ≤ 16)).trans (BitVec.setWidth_eq s.sr)
  · exact (State.setReg_reg_same u spReg _).trans (by rw [hsp]; bv_omega)
  · exact State.setReg_reg_ne u _ hn.symm
  · exact (hreg n).trans (State.setReg_reg_ne s _ hn.symm)

end Sys2Proof.Machine
end

section
/-! PROOFS. The devices' registers and the key event (60_exceptions.md R432, R441 to R454). -/

namespace Sys2Proof.Machine

variable {d : Device}

/-! ### The Keyboard -/

/-- Bit by bit, the status word is `ready` and the interrupt enable (R443). -/
theorem getLsbD_keyboardStatus (ready enabled : Bool) (n : Nat) :
    (keyboardStatus ready enabled).getLsbD n = (decide (n = 0) && ready || decide (n = 3) && enabled) := by
  rcases Nat.lt_or_ge n 16 with hn | hn
  · interval_cases n <;> cases ready <;> cases enabled <;> rfl
  · rw [BitVec.getLsbD_of_ge _ _ hn]
    simp [show n ≠ 0 by omega, show n ≠ 3 by omega]

/-- Settles O53: offset 1 is the status word, and reading it touches nothing. -/
theorem keyboardStatusRead : Obligations.KeyboardStatusRead := by
  intro d queue ready hu
  have hread : d.read 1 = (keyboardStatus ready d.intEnabled, d) := by simp [Device.read, hu]
  rw [hread]
  exact ⟨rfl, getLsbD_keyboardStatus ready d.intEnabled⟩

/-- A control write keeps the codes between the removed first one and the removed last one, or none (R444). -/
theorem keyboardControl_eq (v : Word) (queue : List Word) :
    keyboardControl v queue =
      if v.getLsbD 2 then []
      else (queue.drop (v.getLsbD 0).toNat).take (queue.length - (v.getLsbD 0).toNat - (v.getLsbD 1).toNat) := by
  have htail : (if v.getLsbD 0 then queue.tail else queue) = queue.drop (v.getLsbD 0).toNat := by
    cases v.getLsbD 0 <;> simp
  have hlast : ∀ q : List Word, (if v.getLsbD 1 then q.dropLast else q) = q.take (q.length - (v.getLsbD 1).toNat) := fun q => by
    cases v.getLsbD 1 <;> simp [List.dropLast_eq_take]
  unfold keyboardControl
  simp only [htail, hlast, List.length_drop]

theorem length_keyboardControl (v : Word) (queue : List Word) :
    (keyboardControl v queue).length =
      if v.getLsbD 2 then 0 else queue.length - (v.getLsbD 0).toNat - (v.getLsbD 1).toNat := by
  rw [keyboardControl_eq]
  split
  · rfl
  · rw [List.length_take, List.length_drop]
    omega

/-- The codes that a control write leaves are those behind the removed first one, in their order (R444). -/
theorem getElem?_keyboardControl {v : Word} {queue : List Word} {n : Nat} (hn : n < (keyboardControl v queue).length) :
    (keyboardControl v queue)[n]? = queue[n + (v.getLsbD 0).toNat]? := by
  rw [length_keyboardControl] at hn
  rw [keyboardControl_eq]
  split at hn
  next => exact absurd hn n.not_lt_zero
  next h => rw [if_neg h, List.getElem?_take_of_lt hn, List.getElem?_drop, Nat.add_comm]

theorem Device.write_keyboard_control {queue : List Word} {ready : Bool} (hu : d.unit = .keyboard queue ready) (v : Word) :
    d.write 1 v =
      { d with
        intEnabled := v.getLsbD 3
        unit := .keyboard (keyboardControl v queue) !(keyboardControl v queue).isEmpty } := by
  simp [Device.write, hu]

theorem Device.write_keyboard_data {queue : List Word} {ready : Bool} (hu : d.unit = .keyboard queue ready) (v : Word) :
    d.write 0 v = d := by
  simp [Device.write, hu]

/-! ### The Lights -/

theorem Device.read_lights {switches lights : Word} (hu : d.unit = .lights switches lights) (off : Nat) :
    d.read off = (switches, d) := by
  simp [Device.read, hu]

theorem Device.write_lights {switches lights : Word} (hu : d.unit = .lights switches lights) (off : Nat) (v : Word) :
    d.write off v = { d with unit := .lights switches v } := by
  simp [Device.write, hu]

/-! ### The Screen -/

section
variable {cells : List Word} {power : Bool} (hu : d.unit = .screen cells power)
include hu

/-- A cell shows its word while the power is on, and 0 while it is off (R452). -/
theorem Device.peek_screen_cell {n : Nat} (hn : n < cells.length) :
    d.peek n = if power then cells.getD n 0 else 0 := by
  simp [Device.peek, Device.read, hu, hn]

/-- Bit by bit, the control word is the power (R453). -/
theorem Device.getLsbD_peek_screen_control (b : Nat) :
    (d.peek cells.length).getLsbD b = (decide (b = 1) && power) := by
  have hpeek : d.peek cells.length = screenControl power := by simp [Device.peek, Device.read, hu]
  rw [hpeek]
  rcases Nat.lt_or_ge b 16 with hb | hb
  · interval_cases b <;> cases power <;> rfl
  · rw [BitVec.getLsbD_of_ge _ _ hb]
    simp [show b ≠ 1 by omega]

theorem Device.unit_write_screen_cell {off : Nat} (hoff : off < cells.length) (v : Word) :
    (d.write off v).unit = .screen (cells.set off v) power := by
  simp [Device.write, hu, hoff]

theorem Device.unit_write_screen_control (v : Word) :
    (d.write cells.length v).unit =
      .screen (if v.getLsbD 0 then List.replicate cells.length 0 else cells) (v.getLsbD 1) := by
  simp [Device.write, hu]

end

/-- The word of a cell after one cell of the list is replaced. -/
theorem getD_set {cells : List Word} {off : Nat} (hoff : off < cells.length) (v : Word) (n : Nat) :
    (cells.set off v).getD n 0 = if n = off then v else cells.getD n 0 := by
  by_cases h : n = off
  · subst h
    simp [hoff]
  · simp [List.getD, List.getElem?_set_ne (Ne.symm h), h]

/-- Settles O54: each write is one equation of the device's unit, and each later read one of that unit. -/
theorem deviceRegisterWrites : Obligations.DeviceRegisterWrites := by
  intro d v
  refine ⟨fun queue ready hu => ?_, fun switches lights hu => ?_, fun cells power hu => ?_⟩
  · rw [Device.write_keyboard_control hu]
    exact ⟨Device.write_keyboard_data hu v, rfl, rfl, keyboardControl v queue, rfl, length_keyboardControl v queue,
      fun _ => getElem?_keyboardControl⟩
  · rw [Device.write_lights hu]
    exact ⟨Device.read_lights hu 0, rfl, congrArg Prod.fst (Device.read_lights rfl 0)⟩
  · have hlength : (if v.getLsbD 0 then List.replicate cells.length 0 else cells).length = cells.length := by
      split
      · exact List.length_replicate
      · rfl
    have hcontrol := Device.unit_write_screen_control hu v
    refine ⟨Device.getLsbD_peek_screen_control hu, fun b => ?_, fun n hn => ⟨?_, fun off hoff => ?_⟩⟩
    · have hbits := Device.getLsbD_peek_screen_control hcontrol b
      rwa [hlength] at hbits
    · rw [Device.peek_screen_cell hcontrol (hlength.symm ▸ hn)]
      cases v.getLsbD 0 <;> cases v.getLsbD 1 <;> simp [hn]
    · have hcell := Device.unit_write_screen_cell hu hoff v
      have hset : (cells.set off v).length = cells.length := List.length_set
      have hon : ((d.write off v).write cells.length 2).unit = .screen (cells.set off v) true :=
        hset ▸ Device.unit_write_screen_control hcell 2
      rw [← getD_set hoff]
      exact ⟨Device.peek_screen_cell hcell (hset.symm ▸ hn), Device.peek_screen_cell hon (hset.symm ▸ hn)⟩

/-! ### The key event -/

/-- The first device with a name is the one that an event of that name finds. -/
theorem findIdx_name {ds : List Device} {name : String} {k : Nat} (hk : ds[k]? = some d) (hname : d.name = name)
    (hfirst : ∀ j e, j < k → ds[j]? = some e → e.name ≠ name) : (ds.findIdx fun e => e.name == name) = k := by
  obtain ⟨hlt, rfl⟩ := List.getElem?_eq_some_iff.mp hk
  rw [List.findIdx_eq hlt]
  refine ⟨beq_iff_eq.mpr hname, fun j hj => beq_eq_false_iff_ne.mpr ?_⟩
  exact hfirst j _ hj (List.getElem?_eq_getElem (hj.trans hlt))

/-- `Raise` sets `pending` and `intf` where the device's interrupts are enabled (R432). -/
theorem raiseAt_of_getElem? {s : State} {k : Nat} (hk : s.devices[k]? = some d) :
    raiseAt k s =
      { s with
        devices := s.devices.set k { d with pending := d.pending || d.intEnabled }
        intf := s.intf || d.intEnabled } := by
  have hset : s.devices.set k d = s.devices := by
    obtain ⟨hlt, rfl⟩ := List.getElem?_eq_some_iff.mp hk
    exact List.set_getElem_self hlt
  simp only [raiseAt, hk]
  cases henabled : d.intEnabled with
  | true => simp
  | false =>
    have hd : { d with pending := d.pending, intEnabled := false } = d := by rw [← henabled]
    simp [hd, hset]

section
variable {s : State} {name : String} {k : Nat} {queue : List Word} {ready : Bool} (hk : s.devices[k]? = some d)
  (hindex : (s.devices.findIdx fun e => e.name == name) = k) (hu : d.unit = .keyboard queue ready)
include hk hindex hu

theorem keyEvent_full (code : Nat) (hfull : s.cfg.kbdCapacity ≤ queue.length) :
    keyEvent name code s = ⟨s, some .bufferFull⟩ := by
  simp only [keyEvent, hindex, hk, hu, if_pos hfull, failWith]

theorem keyEvent_room (code : Nat) (hroom : queue.length < s.cfg.kbdCapacity) :
    keyEvent name code s =
      ok (raiseAt k { s with
        devices := s.devices.set k { d with unit := .keyboard (queue ++ [BitVec.ofNat 16 code]) true } }) := by
  simp only [keyEvent, hindex, hk, hu, if_neg (Nat.not_le.mpr hroom)]

end

/-- Settles O56: the event finds the first device of its name; a full queue refuses the code, with room the code is appended and the
device raises. -/
theorem keyEventRequestsInterrupt : Obligations.KeyEventRequestsInterrupt := by
  intro s name code k d queue ready hk hname hfirst hu
  have hindex := findIdx_name hk hname hfirst
  have hcommand : command (.key name code) s = (keyEvent name code s).report := command_of_accepted rfl
  refine ⟨fun hfull => ?_, fun hroom => ?_⟩
  · rw [hcommand, keyEvent_full hk hindex hu code hfull]
    exact ⟨rfl, rfl⟩
  · have hcode : BitVec.ofNat 16 (code % 2 ^ 16) = BitVec.ofNat 16 code := by
      apply BitVec.eq_of_toNat_eq
      simp
    rw [hcommand, keyEvent_room hk hindex hu code hroom, Reply.report_ok, hcode,
      raiseAt_of_getElem? (getElem?_set_of_getElem? hk), List.set_set]
    rfl

end Sys2Proof.Machine
end
